-- ==== Sys2Proof/Word.lean ====
section
/-! DEFINITION. The word types of the machine: bytes, 16-bit words, and the index of a general register. -/

namespace Sys2Proof

/-- A byte: 8 bits, bit 7 the most significant (spec/00_scope.md R8). General registers, timers and memory cells hold one. -/
abbrev Byte := BitVec 8

/-- 16 bits: the width of an instruction word, of I, of pc and of a stack entry (spec/10_state.md R22, R23, R25). -/
abbrev Word := BitVec 16

/-- The index of one of the sixteen general registers V0..VF (spec/10_state.md R20); an X or Y field is 4 bits, so an
index taken from an instruction is always in range (spec/20_memory.md R71). -/
abbrev Reg := Fin 16

/-- VF, general register 15, which doubles as the flag register (spec/10_state.md R21). -/
abbrev VF : Reg := 15

end Sys2Proof
end

