-- ==== Sys2Proof/Syntax.lean ====
section
/-! DEFINITION. The 34 instructions (spec/30_encoding.md R80), one constructor per row of spec/opcode_table.json, in the
table's order. Operands as R77 and R79 give them: X and Y name registers; NN is an 8-bit value; NNN (an address) and N
(a count of rows) are numbers, whose bounds WellFormed.lean checks. -/

namespace Sys2Proof

/-- One instruction of base CHIP-8. The pattern of each is the document's (R80). -/
inductive Instr where
  /-- 00E0, clear the screen (R165). -/
  | cls
  /-- 00EE, return (R115). -/
  | ret
  /-- 1NNN, jump (R116). -/
  | jp (nnn : Nat)
  /-- 2NNN, call (R117). -/
  | call (nnn : Nat)
  /-- 3XNN, skip if Vx = NN (R118). -/
  | seImm (x : Reg) (nn : Byte)
  /-- 4XNN, skip if Vx ≠ NN (R119). -/
  | sneImm (x : Reg) (nn : Byte)
  /-- 5XY0, skip if Vx = Vy (R120). -/
  | seReg (x y : Reg)
  /-- 9XY0, skip if Vx ≠ Vy (R121). -/
  | sneReg (x y : Reg)
  /-- 6XNN, Vx ← NN (R130). -/
  | ldImm (x : Reg) (nn : Byte)
  /-- 7XNN, Vx ← Vx + NN, no flag (R131). -/
  | addImm (x : Reg) (nn : Byte)
  /-- 8XY0, Vx ← Vy (R132). -/
  | ldReg (x y : Reg)
  /-- 8XY1, bitwise or (R133). -/
  | orReg (x y : Reg)
  /-- 8XY2, bitwise and (R134). -/
  | andReg (x y : Reg)
  /-- 8XY3, bitwise exclusive or (R135). -/
  | xorReg (x y : Reg)
  /-- 8XY4, add, carry into VF (R136). -/
  | addReg (x y : Reg)
  /-- 8XY5, Vx ← Vx − Vy, not-borrow into VF (R137). -/
  | subReg (x y : Reg)
  /-- 8XY6, shift Vx right by one; the Y field is kept, and ignored by the operation (R138, R84). -/
  | shr (x y : Reg)
  /-- 8XY7, Vx ← Vy − Vx, not-borrow into VF (R139). -/
  | subn (x y : Reg)
  /-- 8XYE, shift Vx left by one; the Y field is kept, and ignored by the operation (R140, R84). -/
  | shl (x y : Reg)
  /-- ANNN, I ← NNN (R150). -/
  | ldI (nnn : Nat)
  /-- BNNN, jump to V0 + NNN (R122). -/
  | jpV0 (nnn : Nat)
  /-- CXNN, Vx ← NN and a random byte (R141). -/
  | rnd (x : Reg) (nn : Byte)
  /-- DXYN, draw an N-row sprite (R166). -/
  | drw (x y : Reg) (n : Nat)
  /-- EX9E, skip if the key numbered Vx is pressed (R180). -/
  | skp (x : Reg)
  /-- EXA1, skip if the key numbered Vx is not pressed (R181). -/
  | sknp (x : Reg)
  /-- FX0A, wait for the key numbered Vx (R182). -/
  | waitk (x : Reg)
  /-- FX07, Vx ← DT (R183). -/
  | ldVxDT (x : Reg)
  /-- FX15, DT ← Vx (R184). -/
  | ldDT (x : Reg)
  /-- FX18, ST ← Vx (R185). -/
  | ldST (x : Reg)
  /-- FX1E, I ← I + Vx (R151). -/
  | addI (x : Reg)
  /-- FX29, I ← FONT_BASE + 5·Vx (R152). -/
  | ldF (x : Reg)
  /-- FX33, store the decimal digits of Vx at I (R153). -/
  | ldB (x : Reg)
  /-- FX55, store V0..Vx at I (R154). -/
  | storeRegs (x : Reg)
  /-- FX65, load V0..Vx from I (R155). -/
  | loadRegs (x : Reg)
deriving DecidableEq, Repr

end Sys2Proof
end

