-- ==== Sys2Proof/WellFormed.lean ====
section
/-! DEFINITION. Which terms of `Instr` an instruction word can spell: the fields NNN and N fit their widths
(spec/30_encoding.md R77). X, Y and NN carry their widths in their types. -/

namespace Sys2Proof

/-- NNN is a 12-bit immediate, 0..4095 (R77). -/
def addressFits (nnn : Nat) : Bool := decide (nnn < 4096)

/-- N is a 4-bit count, 0..15 (R77). -/
def heightFits (n : Nat) : Bool := decide (n < 16)

/-- The instruction's fields fit the places the encoding has for them (R77). -/
def WellFormed : Instr → Bool
  | .jp nnn => addressFits nnn
  | .call nnn => addressFits nnn
  | .ldI nnn => addressFits nnn
  | .jpV0 nnn => addressFits nnn
  | .drw _ _ n => heightFits n
  | .cls => true
  | .ret => true
  | .seImm _ _ => true
  | .sneImm _ _ => true
  | .seReg _ _ => true
  | .sneReg _ _ => true
  | .ldImm _ _ => true
  | .addImm _ _ => true
  | .ldReg _ _ => true
  | .orReg _ _ => true
  | .andReg _ _ => true
  | .xorReg _ _ => true
  | .addReg _ _ => true
  | .subReg _ _ => true
  | .shr _ _ => true
  | .subn _ _ => true
  | .shl _ _ => true
  | .rnd _ _ => true
  | .skp _ => true
  | .sknp _ => true
  | .waitk _ => true
  | .ldVxDT _ => true
  | .ldDT _ => true
  | .ldST _ => true
  | .addI _ => true
  | .ldF _ => true
  | .ldB _ => true
  | .storeRegs _ => true
  | .loadRegs _ => true

end Sys2Proof
end

