-- ==== Sys2Proof/Decode.lean ====
section
/-! DEFINITION. From bytes to an instruction and back (spec/30_encoding.md R75 to R87): the fields of a word, the
decoder, total on any bytes and rejecting by name, the encoder, and the opcode map as R80's rows. -/

namespace Sys2Proof

/-- Nibble `k` of a word, counted from the least significant: n3 is nibble 0 and n0 is nibble 3 (R76). -/
def nibble (w : Word) (k : Nat) : Nat := w.toNat / 16 ^ k % 16

/-- The register that nibble `k` names (R77: X = n1, Y = n2). -/
def regField (w : Word) (k : Nat) : Reg := ⟨nibble w k, Nat.mod_lt _ (by decide)⟩

/-- X = W[11:8] (R77). -/
def fieldX (w : Word) : Reg := regField w 2

/-- Y = W[7:4] (R77). -/
def fieldY (w : Word) : Reg := regField w 1

/-- N = W[3:0] (R77). -/
def fieldN (w : Word) : Nat := nibble w 0

/-- NN = W[7:0] (R77). -/
def fieldNN (w : Word) : Byte := BitVec.ofNat 8 (w.toNat % 256)

/-- NNN = W[11:0] (R77). -/
def fieldNNN (w : Word) : Nat := w.toNat % 4096

/-- The word that two consecutive bytes spell: big-endian, the byte at the lower address first (spec/20_memory.md R55). -/
def wordOfBytes (b0 b1 : Byte) : Word := BitVec.ofNat 16 (b0.toNat * 256 + b1.toNat)

/-- The byte of a word that lies at the lower address (R55). -/
def firstByte (w : Word) : Byte := BitVec.ofNat 8 (w.toNat / 256)

/-- The byte of a word that lies at the higher address (R55). -/
def secondByte (w : Word) : Byte := BitVec.ofNat 8 (w.toNat % 256)

/-- Why bytes spell no instruction. -/
inductive Reject where
  /-- The word matches no row of the opcode map: the machine raises InvalidOpcode for it (R82). Raised by `decodeWord`;
  safe, the spec names it. -/
  | invalidOpcode (w : Word)
  /-- Fewer than two bytes: an instruction is exactly two bytes (R75). Raised by `decode`; safe, the machine never decodes
  from fewer (its fetch faults first, R102). -/
  | truncated
deriving DecidableEq, Repr

/-- Words with leading nibble 0: 00E0 and 00EE only (R82: there is no 0NNN). -/
def decodeZ (w : Word) : Except Reject Instr :=
  if w = 0x00E0#16 then .ok .cls
  else if w = 0x00EE#16 then .ok .ret
  else .error (.invalidOpcode w)

/-- Words with leading nibble 8: the function code is N (R80 rows 11 to 19, R142; the pairing of
codes with operations is D8, G1: PRESUMED, log entry 24). -/
def decodeAlu (w : Word) : Except Reject Instr :=
  match fieldN w with
  | 0x0 => .ok (.ldReg (fieldX w) (fieldY w))
  | 0x1 => .ok (.orReg (fieldX w) (fieldY w))
  | 0x2 => .ok (.andReg (fieldX w) (fieldY w))
  | 0x3 => .ok (.xorReg (fieldX w) (fieldY w))
  | 0x4 => .ok (.addReg (fieldX w) (fieldY w))
  | 0x5 => .ok (.subReg (fieldX w) (fieldY w))
  | 0x6 => .ok (.shr (fieldX w) (fieldY w))
  | 0x7 => .ok (.subn (fieldX w) (fieldY w))
  | 0xE => .ok (.shl (fieldX w) (fieldY w))
  | _ => .error (.invalidOpcode w)

/-- Words with leading nibble E: the function code is NN (R80 rows 24, 25). -/
def decodeKey (w : Word) : Except Reject Instr :=
  match (fieldNN w).toNat with
  | 0x9E => .ok (.skp (fieldX w))
  | 0xA1 => .ok (.sknp (fieldX w))
  | _ => .error (.invalidOpcode w)

/-- Words with leading nibble F: the function code is NN (R80 rows 26 to 34). -/
def decodeMisc (w : Word) : Except Reject Instr :=
  match (fieldNN w).toNat with
  | 0x0A => .ok (.waitk (fieldX w))
  | 0x07 => .ok (.ldVxDT (fieldX w))
  | 0x15 => .ok (.ldDT (fieldX w))
  | 0x18 => .ok (.ldST (fieldX w))
  | 0x1E => .ok (.addI (fieldX w))
  | 0x29 => .ok (.ldF (fieldX w))
  | 0x33 => .ok (.ldB (fieldX w))
  | 0x55 => .ok (.storeRegs (fieldX w))
  | 0x65 => .ok (.loadRegs (fieldX w))
  | _ => .error (.invalidOpcode w)

/-- The instruction a word spells, by its leading nibble (R80, R105), or its rejection (R82). -/
def decodeWord (w : Word) : Except Reject Instr :=
  match nibble w 3 with
  | 0x0 => decodeZ w
  | 0x1 => .ok (.jp (fieldNNN w))
  | 0x2 => .ok (.call (fieldNNN w))
  | 0x3 => .ok (.seImm (fieldX w) (fieldNN w))
  | 0x4 => .ok (.sneImm (fieldX w) (fieldNN w))
  | 0x5 => if fieldN w = 0 then .ok (.seReg (fieldX w) (fieldY w)) else .error (.invalidOpcode w)
  | 0x6 => .ok (.ldImm (fieldX w) (fieldNN w))
  | 0x7 => .ok (.addImm (fieldX w) (fieldNN w))
  | 0x8 => decodeAlu w
  | 0x9 => if fieldN w = 0 then .ok (.sneReg (fieldX w) (fieldY w)) else .error (.invalidOpcode w)
  | 0xA => .ok (.ldI (fieldNNN w))
  | 0xB => .ok (.jpV0 (fieldNNN w))
  | 0xC => .ok (.rnd (fieldX w) (fieldNN w))
  | 0xD => .ok (.drw (fieldX w) (fieldY w) (fieldN w))
  | 0xE => decodeKey w
  | 0xF => decodeMisc w
  | _ => .error (.invalidOpcode w)

/-- Decode from a list of bytes, answering the instruction and the bytes after it (R75: two bytes each). -/
def decode : List Byte → Except Reject (Instr × List Byte)
  | b0 :: b1 :: rest =>
    match decodeWord (wordOfBytes b0 b1) with
    | .ok i => .ok (i, rest)
    | .error r => .error r
  | _ => .error .truncated

/-- The word of an instruction with a 12-bit address: opcode, NNN (R78 format A). -/
def encodeA (op nnn : Nat) : Word := BitVec.ofNat 16 (op * 4096 + nnn)

/-- The word of an instruction with a register and a byte: opcode, X, NN (R78 formats I and S). -/
def encodeI (op : Nat) (x : Reg) (nn : Nat) : Word := BitVec.ofNat 16 (op * 4096 + x.val * 256 + nn)

/-- The word of an instruction with two registers and a nibble: opcode, X, Y, N (R78 formats R and D). -/
def encodeR (op : Nat) (x y : Reg) (n : Nat) : Word := BitVec.ofNat 16 (op * 4096 + x.val * 256 + y.val * 16 + n)

/-- The instruction word of an instruction: the `match` column of R80 with the fields in their places (R77). -/
def encode : Instr → Word
  | .cls => 0x00E0#16
  | .ret => 0x00EE#16
  | .jp nnn => encodeA 0x1 nnn
  | .call nnn => encodeA 0x2 nnn
  | .seImm x nn => encodeI 0x3 x nn.toNat
  | .sneImm x nn => encodeI 0x4 x nn.toNat
  | .seReg x y => encodeR 0x5 x y 0x0
  | .sneReg x y => encodeR 0x9 x y 0x0
  | .ldImm x nn => encodeI 0x6 x nn.toNat
  | .addImm x nn => encodeI 0x7 x nn.toNat
  | .ldReg x y => encodeR 0x8 x y 0x0
  | .orReg x y => encodeR 0x8 x y 0x1
  | .andReg x y => encodeR 0x8 x y 0x2
  | .xorReg x y => encodeR 0x8 x y 0x3
  | .addReg x y => encodeR 0x8 x y 0x4
  | .subReg x y => encodeR 0x8 x y 0x5
  | .shr x y => encodeR 0x8 x y 0x6
  | .subn x y => encodeR 0x8 x y 0x7
  | .shl x y => encodeR 0x8 x y 0xE
  | .ldI nnn => encodeA 0xA nnn
  | .jpV0 nnn => encodeA 0xB nnn
  | .rnd x nn => encodeI 0xC x nn.toNat
  | .drw x y n => encodeR 0xD x y n
  | .skp x => encodeI 0xE x 0x9E
  | .sknp x => encodeI 0xE x 0xA1
  | .waitk x => encodeI 0xF x 0x0A
  | .ldVxDT x => encodeI 0xF x 0x07
  | .ldDT x => encodeI 0xF x 0x15
  | .ldST x => encodeI 0xF x 0x18
  | .addI x => encodeI 0xF x 0x1E
  | .ldF x => encodeI 0xF x 0x29
  | .ldB x => encodeI 0xF x 0x33
  | .storeRegs x => encodeI 0xF x 0x55
  | .loadRegs x => encodeI 0xF x 0x65

/-- The two bytes of an instruction as they lie in memory, the first at the lower address (R55, R75). -/
def encodeBytes (i : Instr) : List Byte := [firstByte (encode i), secondByte (encode i)]

/-- The opcode map as R80 prints it: (mask, match), in the document's order; a word W spells a row's instruction when
W and mask = match. -/
def opcodeMap : List (Word × Word) :=
  [(0xFFFF#16, 0x00E0#16), (0xFFFF#16, 0x00EE#16), (0xF000#16, 0x1000#16), (0xF000#16, 0x2000#16),
   (0xF000#16, 0x3000#16), (0xF000#16, 0x4000#16), (0xF00F#16, 0x5000#16), (0xF00F#16, 0x9000#16),
   (0xF000#16, 0x6000#16), (0xF000#16, 0x7000#16)] ++
  [(0xF00F#16, 0x8000#16), (0xF00F#16, 0x8001#16), (0xF00F#16, 0x8002#16), (0xF00F#16, 0x8003#16),
   (0xF00F#16, 0x8004#16), (0xF00F#16, 0x8005#16), (0xF00F#16, 0x8006#16), (0xF00F#16, 0x8007#16),
   (0xF00F#16, 0x800E#16)] ++
  [(0xF000#16, 0xA000#16), (0xF000#16, 0xB000#16), (0xF000#16, 0xC000#16), (0xF000#16, 0xD000#16),
   (0xF0FF#16, 0xE09E#16), (0xF0FF#16, 0xE0A1#16)] ++
  [(0xF0FF#16, 0xF00A#16), (0xF0FF#16, 0xF007#16), (0xF0FF#16, 0xF015#16), (0xF0FF#16, 0xF018#16),
   (0xF0FF#16, 0xF01E#16), (0xF0FF#16, 0xF029#16), (0xF0FF#16, 0xF033#16), (0xF0FF#16, 0xF055#16),
   (0xF0FF#16, 0xF065#16)]

/-- The position of an instruction's row in `opcodeMap`, from 0 (R80 numbers the same rows from 1). -/
def rowIndex : Instr → Nat
  | .cls => 0
  | .ret => 1
  | .jp _ => 2
  | .call _ => 3
  | .seImm _ _ => 4
  | .sneImm _ _ => 5
  | .seReg _ _ => 6
  | .sneReg _ _ => 7
  | .ldImm _ _ => 8
  | .addImm _ _ => 9
  | .ldReg _ _ => 10
  | .orReg _ _ => 11
  | .andReg _ _ => 12
  | .xorReg _ _ => 13
  | .addReg _ _ => 14
  | .subReg _ _ => 15
  | .shr _ _ => 16
  | .subn _ _ => 17
  | .shl _ _ => 18
  | .ldI _ => 19
  | .jpV0 _ => 20
  | .rnd _ _ => 21
  | .drw _ _ _ => 22
  | .skp _ => 23
  | .sknp _ => 24
  | .waitk _ => 25
  | .ldVxDT _ => 26
  | .ldDT _ => 27
  | .ldST _ => 28
  | .addI _ => 29
  | .ldF _ => 30
  | .ldB _ => 31
  | .storeRegs _ => 32
  | .loadRegs _ => 33

/-- Whether a word matches the row at position `k` of the opcode map (R80). -/
def matchesRow (w : Word) (k : Nat) : Bool :=
  match opcodeMap[k]? with
  | some (mask, pattern) => w &&& mask == pattern
  | none => false

/-- The instruction the decoder reads from an instruction whose bits are `w`, numbered as spec/opcode_table.json numbers
them: every instruction is one 16-bit word, laid out with its high byte first (R55, R75). `nbits` is always 16 here. -/
def decodeTableWord (_nbits w : Nat) : Option Instr :=
  match decode [BitVec.ofNat 8 (w / 256), BitVec.ofNat 8 w] with
  | .ok (i, _) => some i
  | .error _ => none

end Sys2Proof
end

