-- ==== Sys2Proof/Config.lean ====
section
/-! DEFINITION. What one build of the hardware fixes (spec/00_scope.md R7), and the values the spec leaves free. -/

namespace Sys2Proof.Config

/-- Bytes of main memory (R7 MEM_SIZE). -/
abbrev memSize : Nat := 4096

/-- Highest valid address: an access is valid when its address is at most this (R53). -/
abbrev memTop : Nat := 4095

/-- Load address of the program and reset value of pc (R7 PROG_BASE, R248). -/
abbrev progBase : Nat := 512

/-- Longest program a Reset command accepts, in bytes (R7 PROG_MAX, R62). -/
abbrev progMax : Nat := 3584

/-- Bytes of one glyph of the font (R50: 5 bytes per glyph). -/
abbrev glyphBytes : Nat := 5

/-- Entries of the return-address stack (R7 STACK_CAPACITY). -/
abbrev stackCapacity : Nat := 128

/-- Width of the screen in pixels (R7 FB_W). -/
abbrev fbWidth : Nat := 64

/-- Height of the screen in pixels (R7 FB_H). -/
abbrev fbHeight : Nat := 32

/-- Keys in the input vector (R7 NUM_KEYS). -/
abbrev numKeys : Nat := 16

/-- Timer ticks per second of scheduler time, not configurable (R7 TIMER_FREQUENCY). -/
abbrev timerFrequency : Nat := 60

/-- The reference default of CLOCK_FREQUENCY in Hz (R7, R36). -/
abbrev defaultClockFrequency : Rat := 500

/-- The default of DEBUG_MODE (R7, R36). -/
abbrev defaultDebugMode : Bool := false

/-- FONT_BASE of this build: the spec gives no number, only the range 0..432 (R7, D3), so nothing can be proved of it but
its range. It is the value `State.reset` starts with (DESIGN CHOICE, log entry 3). -/
opaque fontBase : Fin 433

/-- The input vector as sampled for the cycle of a given number, where the host has lined up no sample: a free value,
element k true when key k is pressed (R30, R106, U7; DESIGN CHOICE, log entry 2). -/
opaque freeKeys : Nat → Vector Bool 16

/-- The draw of the random source for the cycle of a given number, where the host has lined up none: a free value, under
no law (R31, D27, U6; DESIGN CHOICE, log entry 2). -/
opaque freeRnd : Nat → Byte

end Sys2Proof.Config
end

