-- ==== Sys2Proof/Machine/State.lean ====
section
/-! DEFINITION. What the machine holds (spec/10_state.md R38), why a step or a command can stop, and the state right
after a Reset command. -/

namespace Sys2Proof.Machine

/-- Main memory as (address, byte) pairs in one canonical form: addresses strictly rising, all below 4096, and no entry
equal to what an unlisted address reads as, which is 0 (R28, R245: `mem[0..4095] <- 0`). -/
abbrev Memory := List Host.Cell

/-- The 64×32 grid of 1-bit pixels (R29): 32 rows from the top, each of 64 columns from the left. -/
abbrev Framebuffer := Vector (Vector Bool 64) 32

/-- The faults of the taxonomy, as `last_fault.code` holds them (spec/60_exceptions.md R215). -/
inductive FaultCode where
  /-- Code 0: no fault since the last Reset command. -/
  | noFault
  /-- Code 1: dispatch found no row of the opcode map (R216). -/
  | invalidOpcode
  /-- Code 2: 2NNN with sp = 128 (R217). -/
  | stackOverflow
  /-- Code 3: 00EE with sp = 0 (R218). -/
  | stackUnderflow
  /-- Code 4: an address above 4095 or a key number above 15 (R219). -/
  | outOfBoundsAccess
  /-- Code 5: a Reset command with a program over 3584 bytes (R220). -/
  | loadTooLarge
deriving DecidableEq, Repr

/-- The 3-bit number of a fault code (R215, R33). -/
def FaultCode.number : FaultCode → BitVec 3
  | .noFault => 0
  | .invalidOpcode => 1
  | .stackOverflow => 2
  | .stackUnderflow => 3
  | .outOfBoundsAccess => 4
  | .loadTooLarge => 5

/-- The status register `last_fault` (R33): the code, the address the faulting instruction was fetched from, and its word. -/
structure LastFault where
  code : FaultCode
  addr : Word
  word : Word
deriving DecidableEq, Repr

/-- The inputs one instruction cycle samples (spec/40_fetch_decode.md R106): the input vector, element k true when key k
is pressed (R30), and the draw of the random source (R31). -/
structure Sample where
  key : Vector Bool 16
  rnd : Byte
deriving DecidableEq, Repr

/-- The state of the block (R38: V to accTimer), the configuration inputs it runs under (R36), and two fields of the
model's own that say which input sample comes next. -/
structure State where
  /-- V0..VF (R20); V15 is VF, the flag (R21). -/
  V : Vector Byte 16
  /-- The index register (R22). -/
  I : Word
  /-- The program counter (R23). -/
  pc : Word
  /-- The number of return addresses on the stack, 0..128 (R24). -/
  sp : Fin 129
  /-- The return-address stack (R25). -/
  stack : Vector Word 128
  /-- The delay timer (R26). -/
  DT : Byte
  /-- The sound timer (R27). -/
  ST : Byte
  /-- Main memory (R28). -/
  mem : Memory
  /-- The framebuffer (R29). -/
  fb : Framebuffer
  /-- 1 after a fatal fault (R32). -/
  halted : Bool
  /-- The most recent fault (R33). -/
  lastFault : LastFault
  /-- `acc_cpu`: scheduler time received and not yet spent on instructions, in seconds (R34). -/
  accCpu : Rat
  /-- `acc_timer` as the integer phase accumulator of R205, D21: in units of 1/(60·n) s, where n is the numerator of
  CLOCK_FREQUENCY; `State.accTimer` reads it in seconds (R35; DEDUCED, log entry 5). -/
  timerPhase : Nat
  /-- CLOCK_FREQUENCY in Hz, a configuration input (R36). -/
  clockFrequency : Rat
  /-- DEBUG_MODE, a configuration input (R36). -/
  debugMode : Bool
  /-- FONT_BASE, a constant of the build, 0..432 (R7, R36, D3). -/
  fontBase : Fin 433
  /-- The model's own: the samples the host has lined up for the coming cycles, the next one first (DESIGN CHOICE, log entry 2). -/
  feed : List Sample
  /-- The model's own: the number of the coming cycle's sample, the argument of the free values (DESIGN CHOICE, log entry 2). -/
  draws : Nat
deriving DecidableEq, Repr

/-- Why a step stops with a fault. The five faults of the spec are not here: taking one is a NEXT state, with `halted`
and `last_fault` written (R221). -/
inductive Fault where
  /-- The block is halted: it executes nothing until a Reset command (R101, R227, U15 `stuck`). Raised by
  `Sys2Proof.Machine.step` alone. Safe: the model stops where the block does nothing. -/
  | halted
deriving DecidableEq, Repr

/-- Why the model gives no meaning. No instruction's meaning answers with one of these but the first, which an arm of
`exec` uses for an instruction without a meaning (none is left). -/
inductive Refusal where
  /-- An instruction rejected by name in its arm of `exec`. Safe: nothing can be proved of it. -/
  | notModelled (mnemonic : String)
  /-- A Frame command with a negative delta, outside the contract (spec/46_scheduler_timers.md R208, D34). Raised by
  `frame`. Safe: the spec refuses it. -/
  | negativeDelta
  /-- A Frame command before the first Reset command (spec/70_reset_and_hazards.md R247, D26, U11). Raised by
  `frameBlock` alone. Safe: the spec refuses it. -/
  | beforeFirstReset
  /-- A CLOCK_FREQUENCY that is not positive (R36). Raised by `resetBlock` and `setClock`. Safe: the parameter is a
  positive rational. -/
  | clockNotPositive
  /-- CLOCK_FREQUENCY changed between two Reset commands (R36, D30, U14). Raised by `setClock`. Safe: the spec refuses it. -/
  | clockFixedUntilReset
deriving DecidableEq, Repr

/-- The machine right after a successful Reset command (R43, R250), with an empty program and a font of zero bytes, so
that memory lists nothing; CLOCK_FREQUENCY and DEBUG_MODE at their defaults (R36), FONT_BASE the build's (DESIGN CHOICE, log entries 1 to 4). -/
def State.reset : State where
  V := Vector.replicate 16 0
  I := 0
  pc := 512
  sp := 0
  stack := Vector.replicate 128 0
  DT := 0
  ST := 0
  mem := []
  fb := Vector.replicate 32 (Vector.replicate 64 false)
  halted := false
  lastFault := ⟨.noFault, 0, 0⟩
  accCpu := 0
  timerPhase := 0
  clockFrequency := Config.defaultClockFrequency
  debugMode := Config.defaultDebugMode
  fontBase := Config.fontBase
  feed := []
  draws := 0

end Sys2Proof.Machine
end

