-- ==== Sys2Proof/Machine/Ops.lean ====
section
/-! DEFINITION. The named operations over memory, registers, stack, screen, timers and inputs, and taking a fault
(spec/60_exceptions.md R221) with the checks that raise one. There is no return from a fault (R227): only a Reset
command leaves the halted state. -/

namespace Sys2Proof.Machine

/-! ## Main memory (spec/20_memory.md) -/

/-- What an address that is not listed reads as: 0 (R28). -/
def Memory.unlisted : Byte := 0

/-- The byte at an address (R53, R60). -/
def Memory.read : Memory → Nat → Byte
  | [], _ => Memory.unlisted
  | (k, b) :: m, a => if k = a then b else Memory.read m a

/-- Memory without any entry for an address. -/
def Memory.erase : Memory → Nat → Memory
  | [], _ => []
  | (k, b) :: m, a => if k = a then Memory.erase m a else (k, b) :: Memory.erase m a

/-- Memory with an entry put in its place: before the first entry of a higher address. -/
def Memory.insert : Memory → Nat → Byte → Memory
  | [], a, v => [(a, v)]
  | (k, b) :: m, a, v => if a < k then (a, v) :: (k, b) :: m else (k, b) :: Memory.insert m a v

/-- Memory with one byte stored (R53, R60), in canonical form: storing what an unlisted address reads as removes the entry. -/
def Memory.write (m : Memory) (a : Nat) (v : Byte) : Memory :=
  if v = Memory.unlisted then m.erase a else (m.erase a).insert a v

/-- Bytes stored at consecutive addresses in ascending order, the first at `a` (R56). -/
def Memory.writeAll : Memory → Nat → List Byte → Memory
  | m, _, [] => m
  | m, a, v :: vs => Memory.writeAll (Memory.write m a v) (a + 1) vs

/-- The canonical form from an address on: strictly rising addresses, all in the address space (R50), no entry equal to
what an unlisted address reads as. -/
def Memory.wfFrom : Nat → Memory → Bool
  | _, [] => true
  | lo, (k, b) :: m =>
    decide (lo ≤ k) && decide (k < Config.memSize) && decide (b ≠ Memory.unlisted) && Memory.wfFrom (k + 1) m

/-- The canonical form of memory. -/
def Memory.wf (m : Memory) : Bool := Memory.wfFrom 0 m

/-! ## Registers, index register, program counter -/

/-- Read general register x (R20). -/
def State.reg (s : State) (x : Reg) : Byte := s.V[x]

/-- Write general register x (R20): none is hardwired. -/
def State.setReg (s : State) (x : Reg) (b : Byte) : State := { s with V := s.V.set x.val b x.isLt }

/-- Write the index register (R22). -/
def State.setI (s : State) (a : Word) : State := { s with I := a }

/-- Load pc with a target, whatever it is (spec/41_control.md R124). -/
def State.setPc (s : State) (a : Word) : State := { s with pc := a }

/-- pc after the fetch: the address of the following instruction (spec/40_fetch_decode.md R104). -/
def State.advancePc (s : State) : State := { s with pc := s.pc + 2 }

/-- `skip`: a further 2 on the already advanced pc, modulo 65536 (R123). -/
def State.skip (s : State) : State := { s with pc := s.pc + 2 }

/-- pc back to the address this instruction was fetched from (R182, R104: the advance is undone explicitly). -/
def State.rewind (s : State) : State := { s with pc := s.pc - 2 }

/-! ## Timers, screen, memory as parts of the state -/

/-- Write the delay timer (R26). -/
def State.setDT (s : State) (b : Byte) : State := { s with DT := b }

/-- Write the sound timer (R27). -/
def State.setST (s : State) (b : Byte) : State := { s with ST := b }

/-- Replace main memory. -/
def State.setMem (s : State) (m : Memory) : State := { s with mem := m }

/-- Replace the framebuffer. -/
def State.setFb (s : State) (f : Framebuffer) : State := { s with fb := f }

/-- All 2048 pixels 0 (R29, R165). -/
def Framebuffer.clear : Framebuffer := Vector.replicate 32 (Vector.replicate 64 false)

/-- The pixel in column x and row y; outside the grid there is none, and the answer is 0 (R29). -/
def Framebuffer.pixel (f : Framebuffer) (x y : Nat) : Bool :=
  if h : x < 64 ∧ y < 32 then (f[y]'h.2)[x]'h.1 else false

/-- The framebuffer with the pixel in column x and row y set to a value; outside the grid nothing changes (R29). -/
def Framebuffer.setPixel (f : Framebuffer) (x y : Nat) (b : Bool) : Framebuffer :=
  if h : x < 64 ∧ y < 32 then f.set y ((f[y]'h.2).set x b h.1) h.2 else f

/-! ## The inputs of a cycle (R106) -/

/-- The sample this cycle sees: the next one the host has lined up, else free values (DESIGN CHOICE, log entry 2). -/
def State.sample (s : State) : Sample :=
  match s.feed with
  | x :: _ => x
  | [] => ⟨Config.freeKeys s.draws, Config.freeRnd s.draws⟩

/-- The cycle is over: the next one sees the next sample (R30: successive cycles may see different snapshots). -/
def State.nextSample (s : State) : State := { s with feed := s.feed.tail, draws := s.draws + 1 }

/-! ## Taking a fault (R221) and the checks that raise one -/

/-- `raise F` during execution: `halted <- 1` and `last_fault` gets the code, the address the instruction was fetched
from, which is pc - 2 since pc has advanced, and its word (R221, R223). Nothing else changes. -/
def State.raise (s : State) (code : FaultCode) (word : Word) : State :=
  { s with halted := true, lastFault := ⟨code, s.pc - 2, word⟩ }

/-- The fetch fault: pc has not advanced, and no word was fetched (R102, R223). -/
def State.raiseFetch (s : State) : State :=
  { s with halted := true, lastFault := ⟨.outOfBoundsAccess, s.pc, 0⟩ }

/-- The debug-mode log of an InvalidOpcode: `last_fault` is written and nothing else (R224). -/
def State.logInvalid (s : State) (word : Word) : State :=
  { s with lastFault := ⟨.invalidOpcode, s.pc - 2, word⟩ }

/-- A word that no row of the opcode map matches: under DEBUG_MODE a logged no-op, else the fault InvalidOpcode
(R216, R224). -/
def State.invalidOpcode (s : State) (word : Word) : State :=
  if s.debugMode then s.logInvalid word else s.raise .invalidOpcode word

/-- The outcome of an instruction whose highest address is `last`: all its addresses are checked before any effect, and
`OutOfBoundsAccess` is raised when one is above 4095 (spec/20_memory.md R53, R54). -/
def guardAddress (i : Instr) (last : Nat) (s t : State) : Host.Outcome State Fault Refusal :=
  if last ≤ Config.memTop then .next t else .next (s.raise .outOfBoundsAccess (encode i))

/-- The outcome of an instruction that tests the key numbered Vx: a number above 15 raises `OutOfBoundsAccess`
(spec/45_input_timers.md R186), else `f` tells the next state from whether the key is down in this cycle's sample. -/
def guardKey (i : Instr) (x : Reg) (s : State) (f : Bool → State) : Host.Outcome State Fault Refusal :=
  if h : (s.reg x).toNat < Config.numKeys then .next (f (s.sample.key[(s.reg x).toNat]'h))
  else .next (s.raise .outOfBoundsAccess (encode i))

/-! ## The return-address stack (R24, R25) -/

/-- Push pc: `stack[sp] <- pc; sp <- sp + 1`, when sp is below the capacity (R117). -/
def State.push (s : State) (h : s.sp.val < Config.stackCapacity) : State :=
  { s with stack := s.stack.set s.sp.val s.pc h, sp := ⟨s.sp.val + 1, Nat.succ_lt_succ h⟩ }

/-- Pop into pc: `sp <- sp - 1; pc <- stack[sp]`, used when sp is not 0 (R115); the popped entry keeps its bits (R25, D36). -/
def State.popPc (s : State) : State :=
  { s with
    sp := ⟨s.sp.val - 1, Nat.lt_of_le_of_lt (Nat.sub_le _ _) s.sp.isLt⟩
    pc := s.stack[s.sp.val - 1]'(by have := s.sp.isLt; omega) }

end Sys2Proof.Machine
end

