-- ==== Sys2Proof/Machine/Flags.lean ====
section
/-! DEFINITION. Every flag computation (spec/10_state.md R21, spec/42_alu.md R143, R144): VF is the one flag, written as
the whole 8-bit value 0 or 1, and after the result. -/

namespace Sys2Proof.Machine

/-- A flag as VF holds it: exactly 0 or 1 (R21, R144). -/
def flagByte (b : Bool) : Byte := if b then 1 else 0

/-- The carry of an addition: the exact sum exceeds 255 (R136). -/
def carryOut (a b : Byte) : Bool := decide (a.toNat + b.toNat > 255)

/-- Not-borrow of minuend − subtrahend: minuend ≥ subtrahend (R137, R139). -/
def notBorrow (minuend subtrahend : Byte) : Bool := decide (minuend.toNat ≥ subtrahend.toNat)

/-- The bit a right shift by one shifts out: bit 0 (R138). -/
def lowBit (a : Byte) : Bool := a.getLsbD 0

/-- The bit a left shift by one shifts out: bit 7 (R140). -/
def highBit (a : Byte) : Bool := a.getLsbD 7

/-- Vx gets the result, then VF gets the flag; with x = F the flag is what remains (R144). -/
def State.setFlagged (s : State) (x : Reg) (result : Byte) (flag : Bool) : State :=
  (s.setReg x result).setReg VF (flagByte flag)

end Sys2Proof.Machine
end

