-- ==== Sys2Proof/Machine/Alu.lean ====
section
/-! DEFINITION. The meanings of register loads, arithmetic and logic (spec/42_alu.md). None touches memory, I, the
stack, the screen or the timers, and none can fault. -/

namespace Sys2Proof.Machine

/-- 6XNN: Vx ← NN (R130). -/
def execLdImm (x : Reg) (nn : Byte) (s : State) : Host.Outcome State Fault Refusal :=
  .next (s.setReg x nn)

/-- 7XNN: Vx ← (Vx + NN) mod 256, the carry dropped (R131, R146). -/
def execAddImm (x : Reg) (nn : Byte) (s : State) : Host.Outcome State Fault Refusal :=
  .next (s.setReg x (s.reg x + nn))

/-- 8XY0: Vx ← Vy (R132). -/
def execLdReg (x y : Reg) (s : State) : Host.Outcome State Fault Refusal :=
  .next (s.setReg x (s.reg y))

/-- 8XY1: Vx ← Vx or Vy (R133). -/
def execOrReg (x y : Reg) (s : State) : Host.Outcome State Fault Refusal :=
  .next (s.setReg x (s.reg x ||| s.reg y))

/-- 8XY2: Vx ← Vx and Vy (R134). -/
def execAndReg (x y : Reg) (s : State) : Host.Outcome State Fault Refusal :=
  .next (s.setReg x (s.reg x &&& s.reg y))

/-- 8XY3: Vx ← Vx xor Vy (R135). -/
def execXorReg (x y : Reg) (s : State) : Host.Outcome State Fault Refusal :=
  .next (s.setReg x (s.reg x ^^^ s.reg y))

/-- 8XY4: Vx ← (Vx + Vy) mod 256, then VF ← carry (R136, R144). -/
def execAddReg (x y : Reg) (s : State) : Host.Outcome State Fault Refusal :=
  .next (s.setFlagged x (s.reg x + s.reg y) (carryOut (s.reg x) (s.reg y)))

/-- 8XY5: Vx ← (Vx − Vy) mod 256, then VF ← not-borrow (R137, R144). -/
def execSubReg (x y : Reg) (s : State) : Host.Outcome State Fault Refusal :=
  .next (s.setFlagged x (s.reg x - s.reg y) (notBorrow (s.reg x) (s.reg y)))

/-- 8XY6: Vx ← Vx / 2, then VF ← the bit shifted out; Y is ignored (R138, R84, D7). -/
def execShr (x _y : Reg) (s : State) : Host.Outcome State Fault Refusal :=
  .next (s.setFlagged x (s.reg x >>> 1) (lowBit (s.reg x)))

/-- 8XY7: Vx ← (Vy − Vx) mod 256, then VF ← not-borrow (R139, R144). -/
def execSubn (x y : Reg) (s : State) : Host.Outcome State Fault Refusal :=
  .next (s.setFlagged x (s.reg y - s.reg x) (notBorrow (s.reg y) (s.reg x)))

/-- 8XYE: Vx ← (Vx · 2) mod 256, then VF ← the bit shifted out; Y is ignored (R140, R84, D7). -/
def execShl (x _y : Reg) (s : State) : Host.Outcome State Fault Refusal :=
  .next (s.setFlagged x (s.reg x <<< 1) (highBit (s.reg x)))

/-- CXNN: Vx ← NN and this cycle's random draw (R141). -/
def execRnd (x : Reg) (nn : Byte) (s : State) : Host.Outcome State Fault Refusal :=
  .next (s.setReg x (nn &&& s.sample.rnd))

end Sys2Proof.Machine
end

