-- ==== Sys2Proof/Machine/Operands.lean ====
section
/-! DEFINITION. Every operand form of the instruction set: immediate addresses, the effective address I + k, the glyph
address, the decimal digits, the origin of a sprite, and the register list of FX55 and FX65. -/

namespace Sys2Proof.Machine

/-- NNN zero-extended to 16 bits, for pc or I (spec/30_encoding.md R79). -/
def immAddress (nnn : Nat) : Word := BitVec.ofNat 16 nnn

/-- The effective address I + k, an unbounded number that does not wrap (spec/20_memory.md R70, spec/43_index_memory.md R157). -/
def State.ea (s : State) (k : Nat) : Nat := s.I.toNat + k

/-- V0 + NNN, not reduced modulo 4096; with a 12-bit NNN it fits 16 bits (spec/41_control.md R122). -/
def State.jumpV0Target (s : State) (nnn : Nat) : Word := BitVec.ofNat 16 ((s.reg 0).toNat + nnn)

/-- FONT_BASE + 5·Vx with the whole 8-bit Vx; it fits 16 bits (R152). -/
def State.glyphAddress (s : State) (x : Reg) : Word :=
  BitVec.ofNat 16 (s.fontBase.val + (s.reg x).toNat * Config.glyphBytes)

/-- (I + Vx) mod 65536 (R151). -/
def State.indexPlus (s : State) (x : Reg) : Word := s.I + (s.reg x).setWidth 16

/-- The hundreds, tens and ones digits of a byte, in the order they are stored (R153). -/
def digits (b : Byte) : List Byte :=
  [BitVec.ofNat 8 (b.toNat / 100), BitVec.ofNat 8 (b.toNat / 10 % 10), BitVec.ofNat 8 (b.toNat % 10)]

/-- V0..Vx inclusive, V0 first: what FX55 stores (R154). -/
def State.regsUpTo (s : State) (x : Reg) : List Byte := s.V.toList.take (x.val + 1)

/-- The registers after V0..Vx are loaded from I, I + 1, ...; the others keep their values (R155). -/
def State.loadedRegs (s : State) (x : Reg) : Vector Byte 16 :=
  Vector.ofFn fun r => if r.val ≤ x.val then s.mem.read (s.ea r.val) else s.V[r]

/-- Column of a sprite's origin: Vx mod 64 (spec/44_display.md R171). -/
def State.originX (s : State) (x : Reg) : Nat := (s.reg x).toNat % Config.fbWidth

/-- Row of a sprite's origin: Vy mod 32 (R171). -/
def State.originY (s : State) (y : Reg) : Nat := (s.reg y).toNat % Config.fbHeight

end Sys2Proof.Machine
end

