-- ==== Sys2Proof/Machine/Control.lean ====
section
/-! DEFINITION. The meanings of the control transfers (spec/41_control.md): RET, JP, CALL, the skips, JP V0. Each runs
on the state after the fetch, whose pc has advanced (R104). -/

namespace Sys2Proof.Machine

/-- 00EE: pop the return address into pc, or StackUnderflow when the stack is empty (R115, R218). -/
def execRet (s : State) : Host.Outcome State Fault Refusal :=
  if s.sp.val = 0 then .next (s.raise .stackUnderflow (encode .ret)) else .next s.popPc

/-- 1NNN: pc ← NNN, unchecked (R116). -/
def execJp (nnn : Nat) (s : State) : Host.Outcome State Fault Refusal :=
  .next (s.setPc (immAddress nnn))

/-- 2NNN: push the advanced pc and jump, or StackOverflow when the stack is full (R117, R217). -/
def execCall (nnn : Nat) (s : State) : Host.Outcome State Fault Refusal :=
  if h : s.sp.val < Config.stackCapacity then .next ((s.push h).setPc (immAddress nnn))
  else .next (s.raise .stackOverflow (encode (.call nnn)))

/-- 3XNN: skip if Vx = NN (R118). -/
def execSeImm (x : Reg) (nn : Byte) (s : State) : Host.Outcome State Fault Refusal :=
  .next (if s.reg x = nn then s.skip else s)

/-- 4XNN: skip if Vx ≠ NN (R119). -/
def execSneImm (x : Reg) (nn : Byte) (s : State) : Host.Outcome State Fault Refusal :=
  .next (if s.reg x ≠ nn then s.skip else s)

/-- 5XY0: skip if Vx = Vy (R120). -/
def execSeReg (x y : Reg) (s : State) : Host.Outcome State Fault Refusal :=
  .next (if s.reg x = s.reg y then s.skip else s)

/-- 9XY0: skip if Vx ≠ Vy (R121). -/
def execSneReg (x y : Reg) (s : State) : Host.Outcome State Fault Refusal :=
  .next (if s.reg x ≠ s.reg y then s.skip else s)

/-- BNNN: pc ← V0 + NNN, not masked (R122). -/
def execJpV0 (nnn : Nat) (s : State) : Host.Outcome State Fault Refusal :=
  .next (s.setPc (s.jumpV0Target nnn))

end Sys2Proof.Machine
end

