-- ==== Sys2Proof/Machine/Display.lean ====
section
/-! DEFINITION. The sprite renderer (spec/44_display.md R167 to R173) and the meanings of CLS and DRW. -/

namespace Sys2Proof.Machine

/-- One touched pixel: a pixel outside the grid is clipped (R169; D4: DESIGN CHOICE, log entry 19); inside, a set pixel
under a set sprite bit is a collision (R168), and the pixel becomes old xor bit (R167). -/
def blitPixel (bit : Bool) (x y : Nat) (p : Framebuffer × Bool) : Framebuffer × Bool :=
  if x < Config.fbWidth ∧ y < Config.fbHeight then
    (p.1.setPixel x y (p.1.pixel x y ^^ bit), p.2 || (p.1.pixel x y && bit))
  else p

/-- The first `n` columns of a sprite row, in ascending order, bit 7 in the leftmost (R170; D9, G2:
PRESUMED, log entry 20). -/
def blitColumns (row : Byte) (x0 y : Nat) : Nat → Framebuffer × Bool → Framebuffer × Bool
  | 0, p => p
  | n + 1, p => blitPixel (row.getLsbD (7 - n)) (x0 + n) y (blitColumns row x0 y n p)

/-- The first `n` rows of a sprite, in ascending order; row r is the byte at I + r (R166, R167). -/
def State.blitRows (s : State) (x0 y0 : Nat) : Nat → Framebuffer × Bool → Framebuffer × Bool
  | 0, p => p
  | n + 1, p => blitColumns (s.mem.read (s.ea n)) x0 (y0 + n) 8 (s.blitRows x0 y0 n p)

/-- The screen and the collision after an N-row sprite at the origin that Vx and Vy give (R166). -/
def State.blit (s : State) (x y : Reg) (n : Nat) : Framebuffer × Bool :=
  s.blitRows (s.originX x) (s.originY y) n (s.fb, false)

/-- 00E0: every pixel 0, VF untouched (R165). -/
def execCls (s : State) : Host.Outcome State Fault Refusal :=
  .next (s.setFb Framebuffer.clear)

/-- DXYN: draw, then VF ← collision, also when nothing is drawn; OutOfBoundsAccess when N > 0 and I + N − 1 is above 4095,
before any pixel or VF changes (R166, R173). I + (N − 1) is only checked for N > 0: with N = 0 no byte is read. -/
def execDrw (x y : Reg) (n : Nat) (s : State) : Host.Outcome State Fault Refusal :=
  guardAddress (.drw x y n) (if n = 0 then 0 else s.ea (n - 1)) s
    ((s.setFb (s.blit x y n).1).setReg VF (flagByte (s.blit x y n).2))

end Sys2Proof.Machine
end

