-- ==== Sys2Proof/Machine/IndexMemory.lean ====
section
/-! DEFINITION. The meanings of the index register's instructions, loads and stores (spec/43_index_memory.md). None
changes I as a side effect of an access (R156). -/

namespace Sys2Proof.Machine

/-- ANNN: I ← NNN (R150). -/
def execLdI (nnn : Nat) (s : State) : Host.Outcome State Fault Refusal :=
  .next (s.setI (immAddress nnn))

/-- FX1E: I ← (I + Vx) mod 65536, no flag (R151, R146). -/
def execAddI (x : Reg) (s : State) : Host.Outcome State Fault Refusal :=
  .next (s.setI (s.indexPlus x))

/-- FX29: I ← FONT_BASE + 5·Vx (R152). -/
def execLdF (x : Reg) (s : State) : Host.Outcome State Fault Refusal :=
  .next (s.setI (s.glyphAddress x))

/-- FX33: the decimal digits of Vx into mem[I..I+2], or OutOfBoundsAccess with no byte written (R153, R54). -/
def execLdB (x : Reg) (s : State) : Host.Outcome State Fault Refusal :=
  guardAddress (.ldB x) (s.ea 2) s (s.setMem (s.mem.writeAll (s.ea 0) (digits (s.reg x))))

/-- FX55: V0..Vx into mem[I..I+x], or OutOfBoundsAccess with no byte written (R154, R54). -/
def execStoreRegs (x : Reg) (s : State) : Host.Outcome State Fault Refusal :=
  guardAddress (.storeRegs x) (s.ea x.val) s (s.setMem (s.mem.writeAll (s.ea 0) (s.regsUpTo x)))

/-- FX65: mem[I..I+x] into V0..Vx, or OutOfBoundsAccess with no register written (R155, R54). -/
def execLoadRegs (x : Reg) (s : State) : Host.Outcome State Fault Refusal :=
  guardAddress (.loadRegs x) (s.ea x.val) s { s with V := s.loadedRegs x }

end Sys2Proof.Machine
end

