-- ==== Sys2Proof/Machine/InputTimers.lean ====
section
/-! DEFINITION. The meanings of the key and timer instructions (spec/45_input_timers.md). The key tested is the one whose
number is in Vx, in this cycle's sample (R180, R106). -/

namespace Sys2Proof.Machine

/-- EX9E: skip if the key numbered Vx is pressed; a number above 15 raises OutOfBoundsAccess (R180, R186). -/
def execSkp (x : Reg) (s : State) : Host.Outcome State Fault Refusal :=
  guardKey (.skp x) x s fun down => if down then s.skip else s

/-- EXA1: skip if the key numbered Vx is not pressed; a number above 15 raises OutOfBoundsAccess (R181, R186). -/
def execSknp (x : Reg) (s : State) : Host.Outcome State Fault Refusal :=
  guardKey (.sknp x) x s fun down => if down then s else s.skip

/-- FX0A: if the key numbered Vx is not pressed, back to this instruction's own address; no register is written; a
number above 15 raises OutOfBoundsAccess (R182, R186). -/
def execWaitk (x : Reg) (s : State) : Host.Outcome State Fault Refusal :=
  guardKey (.waitk x) x s fun down => if down then s else s.rewind

/-- FX07: Vx ← DT (R183). -/
def execLdVxDT (x : Reg) (s : State) : Host.Outcome State Fault Refusal :=
  .next (s.setReg x s.DT)

/-- FX15: DT ← Vx (R184). -/
def execLdDT (x : Reg) (s : State) : Host.Outcome State Fault Refusal :=
  .next (s.setDT (s.reg x))

/-- FX18: ST ← Vx (R185). -/
def execLdST (x : Reg) (s : State) : Host.Outcome State Fault Refusal :=
  .next (s.setST (s.reg x))

end Sys2Proof.Machine
end

