-- ==== Sys2Proof/Machine/Scheduler.lean ====
section
/-! DEFINITION. The timer half of the dual-clock scheduler (spec/46_scheduler_timers.md): the two periods, the timer
tick, and the timer time that one completed instruction cycle accrues. -/

namespace Sys2Proof.Machine

/-- `instruction_period = 1 / CLOCK_FREQUENCY` seconds (R196). -/
def State.instructionPeriod (s : State) : Rat := 1 / s.clockFrequency

/-- `timer_period = 1/60` seconds (R196). -/
def timerPeriod : Rat := 1 / Config.timerFrequency

/-- One timer period in units of `timerPhase`, 1/(60·n) s: the numerator n of CLOCK_FREQUENCY (R205, D21). -/
def State.phasePeriod (s : State) : Nat := s.clockFrequency.num.toNat

/-- One instruction period in units of `timerPhase`: 60 times the denominator of CLOCK_FREQUENCY (R205, D21). -/
def State.phaseStep (s : State) : Nat := Config.timerFrequency * s.clockFrequency.den

/-- `acc_timer` in seconds (R35). -/
def State.accTimer (s : State) : Rat := s.timerPhase / (Config.timerFrequency * s.clockFrequency.num)

/-- One decrement of a timer, floored at 0 (R201). -/
def decrement (b : Byte) : Byte := if b = 0 then 0 else b - 1

/-- TimerTick: both timers are decremented; nothing else changes (R201). -/
def State.timerTick (s : State) : State := { s with DT := decrement s.DT, ST := decrement s.ST }

/-- `while acc_timer >= T: acc_timer <- acc_timer - T; TimerTick()`, at most the given number of times (R198, R200; the
comparison is not strict, spec/90_conflicts.md C4). -/
def State.tickLoop : Nat → State → State
  | 0, s => s
  | n + 1, s =>
    if s.phasePeriod ≤ s.timerPhase then
      State.tickLoop n (State.timerTick { s with timerPhase := s.timerPhase - s.phasePeriod })
    else s

/-- `acc_timer <- acc_timer + P`, then the timer ticks that have fallen due (R198, R199, R200). -/
def State.accrue (s : State) : State :=
  State.tickLoop ((s.timerPhase + s.phaseStep) / s.phasePeriod) { s with timerPhase := s.timerPhase + s.phaseStep }

/-- What follows an instruction cycle: a cycle that halted the block accrues nothing (R199, R204); the next cycle sees
the next input sample (R106). -/
def State.afterCycle (s : State) : State := (if s.halted then s else s.accrue).nextSample

end Sys2Proof.Machine
end

