-- ==== Sys2Proof/Machine/Cycle.lean ====
section
/-! DEFINITION. The instruction cycle `Step(key, rnd)` (spec/40_fetch_decode.md R100): fetch, the advance of pc,
dispatch. Its two inputs are the state's current sample. -/

namespace Sys2Proof.Machine

/-- The word at pc, read from main memory as it is now, from either parity (R103, spec/20_memory.md R55, R57, R68); none
when the second byte would lie above address 4095 (R102). -/
def State.fetchWord (s : State) : Option Word :=
  if s.pc.toNat + 1 ≤ Config.memTop then
    some (wordOfBytes (s.mem.read s.pc.toNat) (s.mem.read (s.pc.toNat + 1)))
  else none

/-- One instruction cycle of a block that is not halted (R100). A fetch off memory faults with pc as it was (R102); an
invalid word faults, or is logged, with pc advanced (R105, R216, R224). -/
def State.cycle (s : State) : Host.Outcome State Fault Refusal :=
  match s.fetchWord with
  | none => .next s.raiseFetch
  | some w =>
    match decodeWord w with
    | .ok i => exec i s.advancePc
    | .error _ => .next (s.advancePc.invalidOpcode w)

/-- A state answered by a cycle, after the scheduler's part (R198). -/
def finishCycle : Host.Outcome State Fault Refusal → Host.Outcome State Fault Refusal
  | .next t => .next t.afterCycle
  | .fault f => .fault f
  | .refused r => .refused r

/-- The state with the two bytes of a table word at the fetch address; a pc that no fetch can use is first put at the
program base, and a halt is lifted, since both would keep the next step from fetching (R101, R102). -/
def State.placeFetchWord (s : State) (w : Nat) : State :=
  let pc := if s.pc.toNat + 1 ≤ Config.memTop then s.pc else BitVec.ofNat 16 Config.progBase
  { s with
    pc := pc
    halted := false
    mem := s.mem.writeAll pc.toNat [BitVec.ofNat 8 (w / 256), BitVec.ofNat 8 w] }

end Sys2Proof.Machine
end

