-- ==== Sys2Proof/Machine/Step.lean ====
section
/-! DEFINITION. One step of the machine: one instruction tick of the scheduler, that is one cycle of the engine and the
timer ticks that fall due after it (spec/46_scheduler_timers.md R198, R210; DEDUCED, log entry 6). -/

namespace Sys2Proof.Machine

/-- One instruction tick: while the block is not halted, one instruction cycle (R100), then the accrual of one instruction
period of timer time and the timer ticks it makes due (R198 to R201). A halted block is stuck (R101, U15). -/
def step (s : State) : Host.Outcome State Fault Refusal :=
  if s.halted then .fault .halted else finishCycle s.cycle

/-- `s` with one instruction of 16 bits placed where the next step fetches, so that the next step runs it. -/
def State.withFetchWord (s : State) (_nbits w : Nat) : State := s.placeFetchWord w

end Sys2Proof.Machine
end

