-- ==== Sys2Proof/Machine/Frame.lean ====
section
/-! DEFINITION. The Frame command (spec/46_scheduler_timers.md R195 to R198): the host's time turned into instruction
ticks. -/

namespace Sys2Proof.Machine

/-- `while acc_cpu >= P: acc_cpu <- acc_cpu - P; Step; if halted = 1: return; ...`, at most the given number of times
(R198). `step` is the engine's Step with the timer part of the loop's body. -/
def frameLoop : Nat → State → Host.Outcome State Fault Refusal
  | 0, s => .next s
  | n + 1, s =>
    if s.instructionPeriod ≤ s.accCpu then
      match step { s with accCpu := s.accCpu - s.instructionPeriod } with
      | .next t => if t.halted then .next t else frameLoop n t
      | .fault f => .fault f
      | .refused r => .refused r
    else .next s

/-- The instruction ticks a Frame may run: floor(acc_cpu / instruction_period) (R197). -/
def State.ticksDue (s : State) : Nat := (s.accCpu / s.instructionPeriod).floor.toNat

/-- Frame(dt): nothing when halted (R204), refused for a negative delta (R208, D34), else `acc_cpu <- acc_cpu + dt` and
the instruction ticks that makes due (R197, R198). -/
def frame (dt : Rat) (s : State) : Host.Outcome State Fault Refusal :=
  if dt < 0 then .refused .negativeDelta
  else if s.halted then .next s
  else frameLoop (State.ticksDue { s with accCpu := s.accCpu + dt }) { s with accCpu := s.accCpu + dt }

end Sys2Proof.Machine
end

