-- ==== Sys2Proof/Machine/Commands.lean ====
section
/-! DEFINITION. What the host can do to the block and read of it (spec/60_exceptions.md R231): the Reset command
(spec/70_reset_and_hazards.md R245, R246), the other commands, and the exports (spec/10_state.md R42). -/

namespace Sys2Proof.Machine

/-- Every field of the state zeroed and pc at 512 (R245), before anything is loaded. The configuration is not touched
(R36), and neither are the samples the host has lined up, which are inputs. -/
def State.zeroed (s : State) : State :=
  { s with
    V := Vector.replicate 16 0
    I := 0
    pc := BitVec.ofNat 16 Config.progBase
    sp := 0
    stack := Vector.replicate 128 0
    DT := 0
    ST := 0
    mem := []
    fb := Framebuffer.clear
    halted := false
    lastFault := ⟨.noFault, 0, 0⟩
    accCpu := 0
    timerPhase := 0 }

/-- Main memory after a Reset command that loads: the font at FONT_BASE, the program at 512, 0 elsewhere (R61, R245). -/
def loadedMemory (fontBase : Fin 433) (program : List Byte) (font : Vector Byte 80) : Memory :=
  (Memory.writeAll [] fontBase.val font.toList).writeAll Config.progBase program

/-- The Reset command (R245): all state replaced, font and program loaded. A program over 3584 bytes loads nothing and
halts the block with LoadTooLarge (R246, R220, D25). The font is 80 bytes by its type (D37). -/
def State.resetCommand (program : List Byte) (font : Vector Byte 80) (s : State) : State :=
  if program.length ≤ Config.progMax then { s.zeroed with mem := loadedMemory s.fontBase program font }
  else { s.zeroed with halted := true, lastFault := ⟨.loadTooLarge, 0, 0⟩ }

/-- The sixteen keys after one key is written (R231: singly): how the host makes the vector of its next samples
(DEDUCED, log entry 31). -/
def writeKey (keys : Vector Bool 16) (k : Fin 16) (down : Bool) : Vector Bool 16 := keys.set k.val down k.isLt

/-- All keys released at once (R41c: "clearable in bulk"). -/
def clearKeys : Vector Bool 16 := Vector.replicate 16 false

/-- What the block holds before its first Reset command: what the host has set of the configuration (R36), the constant
of the build, and the samples lined up. No state of the machine is known then (spec/70_reset_and_hazards.md R247, D26;
DESIGN CHOICE, log entry 12). -/
structure Setup where
  clockFrequency : Rat := Config.defaultClockFrequency
  debugMode : Bool := Config.defaultDebugMode
  fontBase : Fin 433 := Config.fontBase
  feed : List Sample := []
  draws : Nat := 0
deriving DecidableEq, Repr

/-- The block as the host meets it: before its first Reset command, or with the state that R38 lists. -/
inductive Block where
  | fresh (setup : Setup)
  | loaded (s : State)
deriving DecidableEq, Repr

/-- The state a Reset command starts from: of a fresh block only the inputs are known, and the Reset replaces all else. -/
def Block.underReset : Block → State
  | .fresh c =>
    { State.reset with
      clockFrequency := c.clockFrequency, debugMode := c.debugMode, fontBase := c.fontBase
      feed := c.feed, draws := c.draws }
  | .loaded s => s

/-- Further samples of the inputs lined up, after those already there (R30, R31): at any time (R231). -/
def Block.lineUp (samples : List Sample) : Block → Block
  | .fresh c => .fresh { c with feed := c.feed ++ samples }
  | .loaded s => .loaded { s with feed := s.feed ++ samples }

/-- DEBUG_MODE set (R36): at any time, since it is sampled when an InvalidOpcode is detected (R224, R231). -/
def Block.setDebugMode (on : Bool) : Block → Block
  | .fresh c => .fresh { c with debugMode := on }
  | .loaded s => .loaded { s with debugMode := on }

/-- CLOCK_FREQUENCY replaced, whatever the block. -/
def State.withClock (s : State) (f : Rat) : State := { s with clockFrequency := f }

/-- An outcome of the loaded machine as an outcome of the block. -/
def loadedOutcome : Host.Outcome State Fault Refusal → Host.Outcome Block Fault Refusal
  | .next t => .next (.loaded t)
  | .fault f => .fault f
  | .refused r => .refused r

/-- What the host does to the block (R231). -/
inductive Command where
  /-- Reset with program and font (R245); a CLOCK_FREQUENCY given with it holds until the next Reset, and without one
  the present value stays (R36, D30). -/
  | reset (clock : Option Rat) (program : List Byte) (font : Vector Byte 80)
  /-- Frame with a time delta in seconds (R195). -/
  | frame (dt : Rat)
  /-- The coming instruction cycles' samples of the input vector and the random source (R30, R31), in order. -/
  | lineUp (samples : List Sample)
  /-- DEBUG_MODE set (R36). -/
  | setDebugMode (on : Bool)
  /-- CLOCK_FREQUENCY set with no Reset: before the first Reset only (D30). -/
  | setClockFrequency (clock : Rat)
deriving DecidableEq, Repr

/-- The Reset command of any block (R245 to R249): the clock is the one given, else the block's, and has to be positive
(R36). -/
def resetBlock (clock : Option Rat) (program : List Byte) (font : Vector Byte 80) (b : Block) :
    Host.Outcome Block Fault Refusal :=
  if 0 < clock.getD b.underReset.clockFrequency then
    .next (.loaded
      (State.resetCommand program font (b.underReset.withClock (clock.getD b.underReset.clockFrequency))))
  else .refused .clockNotPositive

/-- CLOCK_FREQUENCY set with no Reset: it is constant from one Reset command to the next (R36, D30, U14), so only a block
before its first takes it, a positive one. -/
def setClock (clock : Rat) : Block → Host.Outcome Block Fault Refusal
  | .fresh c => if 0 < clock then .next (.fresh { c with clockFrequency := clock }) else .refused .clockNotPositive
  | .loaded _ => .refused .clockFixedUntilReset

/-- The Frame command of any block: refused before the first Reset command (R247, D26). -/
def frameBlock (dt : Rat) : Block → Host.Outcome Block Fault Refusal
  | .fresh _ => .refused .beforeFirstReset
  | .loaded s => loadedOutcome (frame dt s)

/-- One command of the host (R231). -/
def command (c : Command) (b : Block) : Host.Outcome Block Fault Refusal :=
  match c with
  | .reset clock program font => resetBlock clock program font b
  | .frame dt => frameBlock dt b
  | .lineUp samples => .next (b.lineUp samples)
  | .setDebugMode on => .next (b.setDebugMode on)
  | .setClockFrequency clock => setClock clock b

/-- `sound_active = (ST > 0)` (R207). -/
def State.soundActive (s : State) : Bool := decide (s.ST.toNat > 0)

/-- What the host may read between commands, and nothing else (R42). -/
structure Exports where
  fb : Framebuffer
  DT : Byte
  ST : Byte
  soundActive : Bool
  halted : Bool
  lastFault : LastFault
deriving DecidableEq, Repr

/-- The block's exports; reading them changes nothing (R42, R231). -/
def State.exports (s : State) : Exports := ⟨s.fb, s.DT, s.ST, s.soundActive, s.halted, s.lastFault⟩

/-- The framebuffer in its linear order: pixel (x, y) is element y·64 + x (R42, D10). -/
def Framebuffer.linear (f : Framebuffer) : List Bool := f.toList.flatMap Vector.toList

end Sys2Proof.Machine
end

