-- ==== Sys2Proof/Safety.lean ====
section
/-! DEFINITION. What counts as a safe run, and the invariant of the machine. -/

namespace Sys2Proof.Machine

/-- The block executes: it is not halted (R32). -/
abbrev State.running (s : State) : Prop := s.halted = false

/-- `k` instruction ticks, none of which halts the block (spec/60_exceptions.md R238: a halt is a bad end). -/
def RunsSafely : Nat → State → Prop
  | 0, s => s.running
  | k + 1, s => s.running ∧ ∃ t, step s = .next t ∧ RunsSafely k t

/-- The document's invariant "must stay even": an obligation of the program, which the machine does not check
(spec/70_reset_and_hazards.md R252). -/
abbrev State.pcEven (s : State) : Prop := s.pc.toNat % 2 = 0

/-- What every step and Frame keeps; it rules out states that no run reaches. -/
structure Inv (s : State) : Prop where
  /-- Main memory is in its canonical form, inside the address space (R28, R50). -/
  memory : s.mem.wf = true
  /-- CLOCK_FREQUENCY is a positive rational (R36). -/
  clock : 0 < s.clockFrequency
  /-- `acc_cpu` is not negative, and below one instruction period between Frames while the block runs (R34). -/
  cpuTime : 0 ≤ s.accCpu ∧ (s.halted = false → s.accCpu < s.instructionPeriod)
  /-- `acc_timer` is below one timer period between cycles (R35). -/
  timerTime : s.timerPhase < s.phasePeriod
  /-- No rule puts more than 0x10FE in pc (R23, R122), so its wrap at 65536 is never exercised. -/
  pcBound : s.pc.toNat ≤ 0x10FE
  /-- A return address is the address after a fetched CALL (R117, R102). -/
  returnAddresses : ∀ k : Fin 128, s.stack[k].toNat ≤ 0x1000
  /-- A halted block names its fault; a running one has none, or a logged InvalidOpcode (R32, R33, R224). -/
  status : (s.halted = true → s.lastFault.code ≠ .noFault) ∧
    (s.halted = false → s.lastFault.code = .noFault ∨ s.lastFault.code = .invalidOpcode)
  /-- `last_fault` is (0, 0, 0) until something writes it (R33). -/
  noFaultZero : s.lastFault.code = .noFault → s.lastFault = ⟨.noFault, 0, 0⟩

end Sys2Proof.Machine
end

