-- ==== Sys2Proof/Certificates/Slice0/Obligations.lean ====
section
/-! DEFINITION. The statements for the provers. Those of one instruction or family say its whole next state: what it
writes, and through `OnlyWrites` that nothing else changes; a form that faults is stated beside the form that completes. -/

namespace Sys2Proof.Claims

open Sys2Proof.Machine

/-- What a statement lets an instruction write: registers, I, pc, the stack with its pointer, the timers, the addresses
of the bytes stored to, the screen. -/
structure Writes where
  regs : List Reg := []
  index : Bool := false
  pc : Bool := false
  stack : Bool := false
  delay : Bool := false
  sound : Bool := false
  bytes : List Nat := []
  screen : Bool := false

/-- From `s` to `t` nothing changed but what `w` lists: the frame of an instruction (spec/40_fetch_decode.md R108). -/
structure OnlyWrites (w : Writes) (s t : State) : Prop where
  regs : ∀ r : Reg, r ∉ w.regs → t.V[r] = s.V[r]
  index : w.index = false → t.I = s.I
  pc : w.pc = false → t.pc = s.pc
  stack : w.stack = false → t.sp = s.sp ∧ t.stack = s.stack
  delay : w.delay = false → t.DT = s.DT
  sound : w.sound = false → t.ST = s.ST
  bytes : ∀ a : Nat, a ∉ w.bytes → t.mem.read a = s.mem.read a
  screen : w.screen = false → t.fb = s.fb
  status : t.halted = s.halted ∧ t.lastFault = s.lastFault
  scheduler : t.accCpu = s.accCpu ∧ t.timerPhase = s.timerPhase
  configuration : t.clockFrequency = s.clockFrequency ∧ t.debugMode = s.debugMode ∧ t.fontBase = s.fontBase
  inputs : t.feed = s.feed ∧ t.draws = s.draws

/-- The state after a fault found during execution: halted, the fault recorded with the address fetched from and the
instruction's word, and everything else as it was (R221, R222). -/
def faulted (s : State) (code : FaultCode) (i : Instr) : State :=
  { s with halted := true, lastFault := ⟨code, s.pc - 2, encode i⟩ }

/-- The state that a next outcome holds, changed by `f`; a fault or refusal as it is. -/
def onNext (f : State → State) : Host.Outcome State Fault Refusal → Host.Outcome State Fault Refusal
  | .next t => .next (f t)
  | .fault e => .fault e
  | .refused e => .refused e

/-- A flag as an 8-bit value (R21). -/
def bit (p : Prop) [Decidable p] : Byte := if p then 1 else 0

/-- `n` addresses from `a` on: the bytes a store of `n` bytes at `a` writes. -/
def bytesFrom (a n : Nat) : List Nat := (List.range n).map (a + ·)

/-- The byte at an address once `vs` is stored at consecutive addresses from `a` on: the byte of `vs` that lies there, if
one does, else the byte that memory held (R60). -/
def byteAfter (m : Memory) (a : Nat) (vs : List Byte) (b : Nat) : Byte :=
  if a ≤ b then (vs[b - a]?).getD (m.read b) else m.read b

/-- The hundreds, tens and ones of a byte as three bytes (R153). -/
def decimal (v : Byte) : List Byte :=
  [BitVec.ofNat 8 (v.toNat / 100), BitVec.ofNat 8 (v.toNat / 10 % 10), BitVec.ofNat 8 (v.toNat % 10)]

/-- The sprite bit that lands on pixel (px, py) when N rows are drawn at the origin (Vx mod 64, Vy mod 32): bit
7 − (px − x0) of the byte at I + (py − y0), and none outside the 8 × N rectangle (R167, R170, R171). -/
def spriteBit (s : State) (x y : Reg) (n px py : Nat) : Bool :=
  decide (s.V[x].toNat % 64 ≤ px ∧ px < s.V[x].toNat % 64 + 8 ∧ s.V[y].toNat % 32 ≤ py ∧ py < s.V[y].toNat % 32 + n) &&
    (s.mem.read (s.I.toNat + (py - s.V[y].toNat % 32))).getLsbD (7 - (px - s.V[x].toNat % 64))

/-- The instructions that look at the input vector (R106). -/
def readsKeys : Instr → Bool
  | .skp _ | .sknp _ | .waitk _ => true
  | _ => false

/-- The instruction that looks at the random draw (R106). -/
def readsRandom : Instr → Bool
  | .rnd _ _ => true
  | _ => false

/-- The six writers of the flag (R21). -/
def writesFlag : Instr → Bool
  | .addReg _ _ | .subReg _ _ | .shr _ _ | .subn _ _ | .shl _ _ | .drw _ _ _ => true
  | _ => false

/-- What each instruction's rule lists as written, when it takes no fault (R115 to R185). -/
def ruleWrites (s : State) : Instr → Writes
  | .cls => { screen := true }
  | .ret => { pc := true, stack := true }
  | .jp _ => { pc := true }
  | .call _ => { pc := true, stack := true }
  | .seImm _ _ => { pc := true }
  | .sneImm _ _ => { pc := true }
  | .seReg _ _ => { pc := true }
  | .sneReg _ _ => { pc := true }
  | .ldImm x _ => { regs := [x] }
  | .addImm x _ => { regs := [x] }
  | .ldReg x _ => { regs := [x] }
  | .orReg x _ => { regs := [x] }
  | .andReg x _ => { regs := [x] }
  | .xorReg x _ => { regs := [x] }
  | .addReg x _ => { regs := [x, VF] }
  | .subReg x _ => { regs := [x, VF] }
  | .shr x _ => { regs := [x, VF] }
  | .subn x _ => { regs := [x, VF] }
  | .shl x _ => { regs := [x, VF] }
  | .ldI _ => { index := true }
  | .jpV0 _ => { pc := true }
  | .rnd x _ => { regs := [x] }
  | .drw _ _ _ => { regs := [VF], screen := true }
  | .skp _ => { pc := true }
  | .sknp _ => { pc := true }
  | .waitk _ => { pc := true }
  | .ldVxDT x => { regs := [x] }
  | .ldDT _ => { delay := true }
  | .ldST _ => { sound := true }
  | .addI _ => { index := true }
  | .ldF _ => { index := true }
  | .ldB _ => { bytes := bytesFrom s.I.toNat 3 }
  | .storeRegs x => { bytes := bytesFrom s.I.toNat (x.val + 1) }
  | .loadRegs x => { regs := (List.finRange 16).filter (fun r => decide (r ≤ x)) }

end Sys2Proof.Claims

open Sys2Proof Sys2Proof.Machine Sys2Proof.Claims

/-! ## Encoding -/

/-- R77, R80 (with the function codes of 8XYN as the spec's decision D8 pairs them): decoding the two bytes of a
well-formed instruction gives it back with every operand, and the bytes after it. -/
def Obligations.DecodeOfEncodeIsTheInstruction : Prop :=
  ∀ (i : Instr) (rest : List Byte), WellFormed i = true → decode (encodeBytes i ++ rest) = .ok (i, rest)

/-- The other direction: what a word decodes to is well-formed and is spelled by that word alone, so that no bit of a
word is dropped. -/
def Obligations.EncodeOfDecodeIsTheWord : Prop :=
  ∀ (w : Word) (i : Instr), decodeWord w = .ok i → encode i = w ∧ WellFormed i = true

/-- R81: no word matches two rows of the opcode map. -/
def Obligations.OpcodeRowsAreDisjoint : Prop :=
  ∀ (w : Word) (j k : Nat), matchesRow w j = true → matchesRow w k = true → j = k

/-- R105 with R80 (function codes of 8XYN: D8): a word decodes exactly when a row matches it, to an instruction of that
row. -/
def Obligations.DecodesToTheRowThatMatches : Prop :=
  ∀ w : Word,
    (∀ i, decodeWord w = .ok i → matchesRow w (rowIndex i) = true) ∧
    (∀ k, matchesRow w k = true → ∃ i, decodeWord w = .ok i ∧ rowIndex i = k)

/-- R82 (derived there from R80, D8): the invalid words are exactly these, by their leading nibble. -/
def Obligations.InvalidWordsAreTheListedOnes : Prop :=
  ∀ w : Word, decodeWord w = .error (.invalidOpcode w) ↔
    (nibble w 3 = 0x0 ∧ w ≠ 0x00E0#16 ∧ w ≠ 0x00EE#16) ∨
    (nibble w 3 = 0x5 ∧ fieldN w ≠ 0) ∨
    (nibble w 3 = 0x8 ∧ fieldN w ∈ [0x8, 0x9, 0xA, 0xB, 0xC, 0xD, 0xF]) ∨
    (nibble w 3 = 0x9 ∧ fieldN w ≠ 0) ∨
    (nibble w 3 = 0xE ∧ (fieldNN w).toNat ∉ [0x9E, 0xA1]) ∨
    (nibble w 3 = 0xF ∧ (fieldNN w).toNat ∉ [0x07, 0x0A, 0x15, 0x18, 0x1E, 0x29, 0x33, 0x55, 0x65])

/-- R87 and spec/95_test_vectors.md 2.1 (that 8XY5 is SUB: the pairing of D8, G1, PRESUMED, log entry 24): words written out bit by bit decode to the instructions they stand for, or to
none. -/
def Obligations.WorkedDecodes : Prop :=
  decodeWord 0b0010001100000000#16 = .ok (.call 0x300) ∧
  decodeWord 0b1000000000010101#16 = .ok (.subReg 0 1) ∧
  decodeWord 0b1101000000010101#16 = .ok (.drw 0 1 5) ∧
  decodeWord 0b1111001001100101#16 = .ok (.loadRegs 2) ∧
  decodeWord 0b1111111111111111#16 = .error (.invalidOpcode 0xFFFF#16) ∧
  decodeWord 0b0000000000000000#16 = .error (.invalidOpcode 0x0000#16) ∧
  decodeWord 0b0101000100100001#16 = .error (.invalidOpcode 0x5121#16)

/-! ## Control transfer -/

/-- R116: JP sets pc to NNN and changes nothing else; that no NNN is turned away, an odd one included, is R124's choice
(D5; DESIGN CHOICE, log entry 21). -/
def Obligations.JumpSetsPc : Prop :=
  ∀ (s : State) (nnn : Nat), nnn < 4096 →
    (encode (.jp nnn)).toNat = 0x1000 + nnn ∧
    ∃ t, exec (.jp nnn) s = .next t ∧ t.pc.toNat = nnn ∧ OnlyWrites { pc := true } s t

/-- R122: JP V0 sets pc to V0 + NNN and changes nothing else; that the sum is not reduced modulo 4096 is the choice of
C7, D38 (DESIGN CHOICE, log entry 29). -/
def Obligations.JumpV0SetsPcToTheSum : Prop :=
  ∀ (s : State) (nnn : Nat), nnn < 4096 →
    (encode (.jpV0 nnn)).toNat = 0xB000 + nnn ∧
    ∃ t, exec (.jpV0 nnn) s = .next t ∧ t.pc.toNat = s.V[(0 : Reg)].toNat + nnn ∧ OnlyWrites { pc := true } s t

/-- R117 (capacity 128, and sp as the number of entries: the spec's D6): CALL pushes the pc of the instruction after it
when the stack is not full; else StackOverflow, with nothing pushed and pc not loaded. -/
def Obligations.CallPushesOrOverflows : Prop :=
  ∀ (s : State) (nnn : Nat), nnn < 4096 →
    (∀ h : s.sp.val < 128, ∃ t, exec (.call nnn) s = .next t ∧ t.pc.toNat = nnn ∧ t.sp.val = s.sp.val + 1 ∧
      t.stack[s.sp.val] = s.pc ∧ (∀ k : Fin 128, k.val ≠ s.sp.val → t.stack[k] = s.stack[k]) ∧
      OnlyWrites { pc := true, stack := true } s t) ∧
    (s.sp.val = 128 → exec (.call nnn) s = .next (faulted s .stackOverflow (.call nnn)))

/-- R115 (the popped entry keeps its bits: D36): RET loads pc with the last pushed entry when there is one; else
StackUnderflow, with sp 0 and pc as advanced. -/
def Obligations.ReturnPopsOrUnderflows : Prop :=
  ∀ s : State,
    (∀ h : 0 < s.sp.val, ∃ t, exec .ret s = .next t ∧ t.sp.val = s.sp.val - 1 ∧
      t.pc = s.stack[s.sp.val - 1]'(by have := s.sp.isLt; omega) ∧ t.stack = s.stack ∧
      OnlyWrites { pc := true, stack := true } s t) ∧
    (s.sp.val = 0 → exec .ret s = .next (faulted s .stackUnderflow .ret))

/-- spec/41_control.md R117 with R115, the round trip of §8: RET after CALL puts pc at the instruction after the CALL,
whatever the state of the stack below it. -/
def Obligations.CallThenReturnComesBack : Prop :=
  ∀ (s : State) (nnn : Nat), s.sp.val < 128 →
    ∃ t u, exec (.call nnn) s = .next t ∧ exec .ret t.advancePc = .next u ∧ u.pc = s.pc ∧ u.sp = s.sp ∧
      (∀ k : Fin 128, k.val < s.sp.val → u.stack[k] = s.stack[k])

/-- R118, R119: the skips on an immediate. -/
def Obligations.SkipsOnImmediate : Prop :=
  ∀ (s : State) (x : Reg) (nn : Byte),
    (encode (.seImm x nn)).toNat = 0x3000 + x.val * 256 + nn.toNat ∧
    (encode (.sneImm x nn)).toNat = 0x4000 + x.val * 256 + nn.toNat ∧
    (∃ t, exec (.seImm x nn) s = .next t ∧ t.pc = (if s.V[x] = nn then s.pc + 2 else s.pc) ∧
      OnlyWrites { pc := true } s t) ∧
    (∃ t, exec (.sneImm x nn) s = .next t ∧ t.pc = (if s.V[x] = nn then s.pc else s.pc + 2) ∧
      OnlyWrites { pc := true } s t)

/-- R120, R121: the skips on two registers; the same register twice always, or never, skips. -/
def Obligations.SkipsOnRegisters : Prop :=
  ∀ (s : State) (x y : Reg),
    (encode (.seReg x y)).toNat = 0x5000 + x.val * 256 + y.val * 16 ∧
    (encode (.sneReg x y)).toNat = 0x9000 + x.val * 256 + y.val * 16 ∧
    (∃ t, exec (.seReg x y) s = .next t ∧ t.pc = (if s.V[x] = s.V[y] then s.pc + 2 else s.pc) ∧
      OnlyWrites { pc := true } s t) ∧
    (∃ t, exec (.sneReg x y) s = .next t ∧ t.pc = (if s.V[x] = s.V[y] then s.pc else s.pc + 2) ∧
      OnlyWrites { pc := true } s t)

/-! ## Register loads, arithmetic and logic -/

/-- R130, R131: LD and ADD with an immediate, the sum modulo 256; that ADD writes no flag is R146's choice (D13; DESIGN
CHOICE, log entry 25). -/
def Obligations.LoadAndAddImmediate : Prop :=
  ∀ (s : State) (x : Reg) (nn : Byte),
    (encode (.ldImm x nn)).toNat = 0x6000 + x.val * 256 + nn.toNat ∧
    (encode (.addImm x nn)).toNat = 0x7000 + x.val * 256 + nn.toNat ∧
    (∃ t, exec (.ldImm x nn) s = .next t ∧ t.V[x] = nn ∧ OnlyWrites { regs := [x] } s t) ∧
    (∃ t, exec (.addImm x nn) s = .next t ∧ t.V[x].toNat = (s.V[x].toNat + nn.toNat) % 256 ∧
      OnlyWrites { regs := [x] } s t)

/-- R132 to R135 (function codes: D8, log entry 24): assign, OR, AND, XOR on 8 bits, bit by bit; that VF is not written
unless it is Vx is R146's choice (D13; DESIGN CHOICE, log entry 25). -/
def Obligations.MoveAndLogic : Prop :=
  ∀ (s : State) (x y : Reg),
    (∃ t, exec (.ldReg x y) s = .next t ∧ t.V[x] = s.V[y] ∧ OnlyWrites { regs := [x] } s t) ∧
    (∃ t, exec (.orReg x y) s = .next t ∧
      (∀ k, t.V[x].getLsbD k = (s.V[x].getLsbD k || s.V[y].getLsbD k)) ∧ OnlyWrites { regs := [x] } s t) ∧
    (∃ t, exec (.andReg x y) s = .next t ∧
      (∀ k, t.V[x].getLsbD k = (s.V[x].getLsbD k && s.V[y].getLsbD k)) ∧ OnlyWrites { regs := [x] } s t) ∧
    (∃ t, exec (.xorReg x y) s = .next t ∧
      (∀ k, t.V[x].getLsbD k = (s.V[x].getLsbD k ^^ s.V[y].getLsbD k)) ∧ OnlyWrites { regs := [x] } s t)

/-- R136, R144: ADD Vx, Vy; VF ends as the carry, also when it is Vx. -/
def Obligations.AddSetsCarry : Prop :=
  ∀ (s : State) (x y : Reg),
    ∃ t, exec (.addReg x y) s = .next t ∧
      (x ≠ VF → t.V[x].toNat = (s.V[x].toNat + s.V[y].toNat) % 256) ∧
      t.V[VF] = bit (s.V[x].toNat + s.V[y].toNat > 255) ∧ OnlyWrites { regs := [x, VF] } s t

/-- R137, R139, R144: SUB and SUBN; VF ends as not-borrow, 1 on equality, also when it is Vx. -/
def Obligations.SubtractSetsNotBorrow : Prop :=
  ∀ (s : State) (x y : Reg),
    (∃ t, exec (.subReg x y) s = .next t ∧
      (x ≠ VF → t.V[x].toNat = (s.V[x].toNat + 256 - s.V[y].toNat) % 256) ∧
      t.V[VF] = bit (s.V[x].toNat ≥ s.V[y].toNat) ∧ OnlyWrites { regs := [x, VF] } s t) ∧
    (∃ t, exec (.subn x y) s = .next t ∧
      (x ≠ VF → t.V[x].toNat = (s.V[y].toNat + 256 - s.V[x].toNat) % 256) ∧
      t.V[VF] = bit (s.V[y].toNat ≥ s.V[x].toNat) ∧ OnlyWrites { regs := [x, VF] } s t)

/-- R138, R140 (Vx is shifted, whatever Y is: the spec's D7, R84): the shifts by one; VF ends as the bit shifted out. -/
def Obligations.ShiftsSetTheBitShiftedOut : Prop :=
  ∀ (s : State) (x y : Reg),
    (∃ t, exec (.shr x y) s = .next t ∧ (x ≠ VF → t.V[x].toNat = s.V[x].toNat / 2) ∧
      t.V[VF] = bit (s.V[x].toNat % 2 = 1) ∧ OnlyWrites { regs := [x, VF] } s t) ∧
    (∃ t, exec (.shl x y) s = .next t ∧ (x ≠ VF → t.V[x].toNat = s.V[x].toNat * 2 % 256) ∧
      t.V[VF] = bit (s.V[x].toNat ≥ 128) ∧ OnlyWrites { regs := [x, VF] } s t)

/-- R141 (the draw is free: D27, log entry 2): Vx becomes NN and the draw, bit by bit, for every draw the host may line
up, and every bit that is 0 in NN is 0 in Vx whatever the draw. -/
def Obligations.RandomIsMaskedByNN : Prop :=
  ∀ (s : State) (x : Reg) (nn : Byte),
    ∃ t, exec (.rnd x nn) s = .next t ∧
      (∀ key r rest, s.feed = ⟨key, r⟩ :: rest → ∀ k, t.V[x].getLsbD k = (nn.getLsbD k && r.getLsbD k)) ∧
      (∀ k, nn.getLsbD k = false → t.V[x].getLsbD k = false) ∧ OnlyWrites { regs := [x] } s t

/-! ## Index register, loads and stores -/

/-- R150, R151: LD I and ADD I, the sum modulo 65536; that ADD I writes no flag is R146's choice (D13; DESIGN CHOICE, log
entry 25). -/
def Obligations.IndexLoadsAndAdds : Prop :=
  ∀ (s : State) (x : Reg) (nnn : Nat), nnn < 4096 →
    (encode (.ldI nnn)).toNat = 0xA000 + nnn ∧
    (encode (.addI x)).toNat = 0xF01E + x.val * 256 ∧
    (∃ t, exec (.ldI nnn) s = .next t ∧ t.I.toNat = nnn ∧ OnlyWrites { index := true } s t) ∧
    (∃ t, exec (.addI x) s = .next t ∧ t.I.toNat = (s.I.toNat + s.V[x].toNat) % 65536 ∧
      OnlyWrites { index := true } s t)

/-- R152 (the whole 8-bit Vx: D14; FONT_BASE is any of its range: D3): LD F. -/
def Obligations.FontAddress : Prop :=
  ∀ (s : State) (x : Reg),
    ∃ t, exec (.ldF x) s = .next t ∧ t.I.toNat = s.fontBase.val + s.V[x].toNat * 5 ∧ OnlyWrites { index := true } s t

/-- R153: LD B stores the three digits at the addresses `State.ea` computes, when they exist; else OutOfBoundsAccess
with no byte written (all addresses checked first: D2, R54). -/
def Obligations.DecimalDigitsStored : Prop :=
  ∀ (s : State) (x : Reg),
    (s.I.toNat + 2 ≤ 4095 → ∃ t, exec (.ldB x) s = .next t ∧
      (t.mem.read (s.ea 0)).toNat = s.V[x].toNat / 100 ∧
      (t.mem.read (s.ea 1)).toNat = s.V[x].toNat / 10 % 10 ∧
      (t.mem.read (s.ea 2)).toNat = s.V[x].toNat % 10 ∧ OnlyWrites { bytes := bytesFrom (s.ea 0) 3 } s t) ∧
    (s.I.toNat + 2 > 4095 → exec (.ldB x) s = .next (faulted s .outOfBoundsAccess (.ldB x)))

/-- R154 (I is not changed: D12; all addresses checked first: D2): LD [I], Vx stores V0..Vx at I, I + 1, .... -/
def Obligations.RegistersStored : Prop :=
  ∀ (s : State) (x : Reg),
    (s.I.toNat + x.val ≤ 4095 → ∃ t, exec (.storeRegs x) s = .next t ∧
      (∀ r : Reg, r ≤ x → t.mem.read (s.ea r.val) = s.V[r]) ∧
      OnlyWrites { bytes := bytesFrom (s.ea 0) (x.val + 1) } s t) ∧
    (s.I.toNat + x.val > 4095 → exec (.storeRegs x) s = .next (faulted s .outOfBoundsAccess (.storeRegs x)))

/-- R155 (I is not changed: D12; all addresses checked first: D2): LD Vx, [I] loads V0..Vx from I, I + 1, .... -/
def Obligations.RegistersLoaded : Prop :=
  ∀ (s : State) (x : Reg),
    (s.I.toNat + x.val ≤ 4095 → ∃ t, exec (.loadRegs x) s = .next t ∧
      (∀ r : Reg, r ≤ x → t.V[r] = s.mem.read (s.I.toNat + r.val)) ∧
      OnlyWrites { regs := (List.finRange 16).filter (fun r => decide (r ≤ x)) } s t) ∧
    (s.I.toNat + x.val > 4095 → exec (.loadRegs x) s = .next (faulted s .outOfBoundsAccess (.loadRegs x)))

/-- spec/20_memory.md R60, R64 (one agent): bytes stored in order at consecutive addresses read back, each at its own
address, and every other address reads as before. -/
def Obligations.ReadGivesTheLastWrite : Prop :=
  ∀ (m : Memory) (a : Nat) (vs : List Byte) (b : Nat),
    (m.writeAll a vs).read b = if h : a ≤ b ∧ b < a + vs.length then vs[b - a]'(by omega) else m.read b

/-- R68 (derived there): a store by FX55 or FX33 is seen by every later fetch, from the very next one on, wherever the
fetch lies: inside the stored run, across an end of it, or outside; from an odd address too (D5; DESIGN CHOICE, log
entry 21). `t.setPc a` with a = t.pc is the state the next cycle fetches in. -/
def Obligations.StoreIsSeenByTheNextFetch : Prop :=
  ∀ (s : State) (x : Reg) (a : Word), a.toNat + 1 ≤ 4095 →
    (s.I.toNat + x.val ≤ 4095 → ∃ t, exec (.storeRegs x) s = .next t ∧ t.pc = s.pc ∧
      (t.setPc a).fetchWord = some (wordOfBytes
        (byteAfter s.mem s.I.toNat (s.V.toList.take (x.val + 1)) a.toNat)
        (byteAfter s.mem s.I.toNat (s.V.toList.take (x.val + 1)) (a.toNat + 1)))) ∧
    (s.I.toNat + 2 ≤ 4095 → ∃ t, exec (.ldB x) s = .next t ∧ t.pc = s.pc ∧
      (t.setPc a).fetchWord = some (wordOfBytes
        (byteAfter s.mem s.I.toNat (decimal s.V[x]) a.toNat)
        (byteAfter s.mem s.I.toNat (decimal s.V[x]) (a.toNat + 1))))

/-! ## Display -/

/-- R165: CLS makes every pixel 0 and changes nothing else; that VF is not written is the spec's choice (N32, D13; DESIGN
CHOICE, log entry 25). -/
def Obligations.ClearScreen : Prop :=
  ∀ s : State, (encode .cls).toNat = 0x00E0 ∧
    ∃ t, exec .cls s = .next t ∧ (∀ x y, x < 64 → y < 32 → t.fb.pixel x y = false) ∧ OnlyWrites { screen := true } s t

/-- R166 to R168, R171, clipping as R169 (the spec's D4) and bit order as R170 (D9) decide: a draw whose bytes all exist
(R173, D31) xors the sprite into the pixels, and VF becomes 1 exactly when a set pixel met a set sprite bit on the grid. -/
def Obligations.DrawXorsAndReportsCollision : Prop :=
  ∀ (s : State) (x y : Reg) (n : Nat), (n = 0 ∨ s.I.toNat + n - 1 ≤ 4095) →
    ∃ t, exec (.drw x y n) s = .next t ∧
      (∀ px py, px < 64 → py < 32 → t.fb.pixel px py = (s.fb.pixel px py ^^ spriteBit s x y n px py)) ∧
      (t.V[VF] = 0 ∨ t.V[VF] = 1) ∧
      (t.V[VF] = 1 ↔ ∃ px py, px < 64 ∧ py < 32 ∧ s.fb.pixel px py = true ∧ spriteBit s x y n px py = true) ∧
      OnlyWrites { regs := [VF], screen := true } s t

/-- R173 (the spec's D31) with R166: a draw with a byte above 4095 faults before any pixel or VF changes. -/
def Obligations.DrawOutOfBoundsFaults : Prop :=
  ∀ (s : State) (x y : Reg) (n : Nat), 0 < n → s.I.toNat + n - 1 > 4095 →
    exec (.drw x y n) s = .next (faulted s .outOfBoundsAccess (.drw x y n))

/-- R172 (derived there): drawing the same sprite twice at the same place restores the screen, and the second draw
collides exactly when the first turned on a pixel. -/
def Obligations.DrawTwiceRestoresTheScreen : Prop :=
  ∀ (s t u : State) (x y : Reg) (n : Nat), (n = 0 ∨ s.I.toNat + n - 1 ≤ 4095) → x ≠ VF → y ≠ VF →
    exec (.drw x y n) s = .next t → exec (.drw x y n) t = .next u →
    u.fb = s.fb ∧
    (u.V[VF] = 1 ↔ ∃ px py, px < 64 ∧ py < 32 ∧ s.fb.pixel px py = false ∧ t.fb.pixel px py = true)

/-! ## Keys and timers as instructions see them -/

/-- R180, R181 (a key number above 15 faults: the spec's D11): the key tested is the one numbered Vx. -/
def Obligations.KeySkips : Prop :=
  ∀ (s : State) (x : Reg),
    (∀ h : s.V[x].toNat < 16,
      (∃ t, exec (.skp x) s = .next t ∧ t.pc = (if s.sample.key[s.V[x].toNat] then s.pc + 2 else s.pc) ∧
        OnlyWrites { pc := true } s t) ∧
      (∃ t, exec (.sknp x) s = .next t ∧ t.pc = (if s.sample.key[s.V[x].toNat] then s.pc else s.pc + 2) ∧
        OnlyWrites { pc := true } s t)) ∧
    (s.V[x].toNat ≥ 16 → exec (.skp x) s = .next (faulted s .outOfBoundsAccess (.skp x)) ∧
      exec (.sknp x) s = .next (faulted s .outOfBoundsAccess (.sknp x)))

/-- R182 with R186 (a key number above 15 faults: the spec's D11): WAITK falls through when the key numbered Vx is
pressed, goes back to its own address while it is not, and stores nothing. -/
def Obligations.WaitKeyFallsThroughOrRepeats : Prop :=
  ∀ (s : State) (x : Reg),
    (∀ h : s.V[x].toNat < 16,
      (s.sample.key[s.V[x].toNat] = true → exec (.waitk x) s = .next s) ∧
      (s.sample.key[s.V[x].toNat] = false →
        ∃ t, exec (.waitk x) s = .next t ∧ t.pc = s.pc - 2 ∧ OnlyWrites { pc := true } s t)) ∧
    (s.V[x].toNat ≥ 16 → exec (.waitk x) s = .next (faulted s .outOfBoundsAccess (.waitk x)))

/-- R183 to R185: the timers are read and written whole. -/
def Obligations.TimerAccess : Prop :=
  ∀ (s : State) (x : Reg),
    (encode (.ldVxDT x)).toNat = 0xF007 + x.val * 256 ∧
    (encode (.ldDT x)).toNat = 0xF015 + x.val * 256 ∧
    (encode (.ldST x)).toNat = 0xF018 + x.val * 256 ∧
    (∃ t, exec (.ldVxDT x) s = .next t ∧ t.V[x] = s.DT ∧ OnlyWrites { regs := [x] } s t) ∧
    (∃ t, exec (.ldDT x) s = .next t ∧ t.DT = s.V[x] ∧ OnlyWrites { delay := true } s t) ∧
    (∃ t, exec (.ldST x) s = .next t ∧ t.ST = s.V[x] ∧ (t.soundActive = true ↔ 0 < s.V[x].toNat) ∧
      OnlyWrites { sound := true } s t)

/-! ## Rules over all instructions -/

/-- R108, R109, R222, R226 (D2, D13): every instruction answers a next state, and either writes only what its rule lists,
or takes one of the three execution faults with everything else as it was. -/
def Obligations.InstructionsWriteOnlyWhatTheirRulesList : Prop :=
  ∀ (i : Instr) (s : State), ∃ t, exec i s = .next t ∧
    (OnlyWrites (ruleWrites s i) s t ∨
      ∃ code, code ∈ [FaultCode.stackOverflow, .stackUnderflow, .outOfBoundsAccess] ∧ t = faulted s code i)

/-- R21: only six instructions write the flag, as the value 0 or 1; an instruction that is none of them leaves VF alone
unless it is a destination register. -/
def Obligations.OnlySixInstructionsWriteTheFlag : Prop :=
  ∀ (i : Instr) (s t : State), exec i s = .next t → t.halted = s.halted →
    (writesFlag i = true → s.halted = false → t.V[VF] = 0 ∨ t.V[VF] = 1) ∧
    (writesFlag i = false → VF ∉ (ruleWrites s i).regs → t.V[VF] = s.V[VF])

/-- R106: only EX9E, EXA1 and FX0A look at the keys, and only CXNN at the random draw: for every other instruction the
outcome is the same for any two of them. -/
def Obligations.OnlyKeyAndRandomInstructionsReadInputs : Prop :=
  ∀ (i : Instr) (s : State) (key key' : Vector Bool 16) (r r' : Byte) (rest : List Sample),
    (readsKeys i = false → exec i { s with feed := ⟨key', r⟩ :: rest } =
      onNext (fun t => { t with feed := ⟨key', r⟩ :: rest }) (exec i { s with feed := ⟨key, r⟩ :: rest })) ∧
    (readsRandom i = false → exec i { s with feed := ⟨key, r'⟩ :: rest } =
      onNext (fun t => { t with feed := ⟨key, r'⟩ :: rest }) (exec i { s with feed := ⟨key, r⟩ :: rest }))

/-- R58, R51, R24, R25, R29, R22, R156, each in the part that says who writes what: a step changes main memory only by
FX33 and FX55, the stack or its pointer only by 2NNN and 00EE, the screen only by 00E0 and DXYN, and I only by ANNN,
FX1E and FX29. -/
def Obligations.OnlyOwnersChangeMemoryStackScreenAndIndex : Prop :=
  ∀ (s t : State), step s = .next t →
    ((∃ a, t.mem.read a ≠ s.mem.read a) →
      ∃ w x, s.fetchWord = some w ∧ (decodeWord w = .ok (.ldB x) ∨ decodeWord w = .ok (.storeRegs x))) ∧
    (t.stack ≠ s.stack ∨ t.sp ≠ s.sp →
      ∃ w, s.fetchWord = some w ∧ (decodeWord w = .ok .ret ∨ ∃ nnn, decodeWord w = .ok (.call nnn))) ∧
    (t.fb ≠ s.fb →
      ∃ w, s.fetchWord = some w ∧ (decodeWord w = .ok .cls ∨ ∃ x y n, decodeWord w = .ok (.drw x y n))) ∧
    (t.I ≠ s.I →
      ∃ w, s.fetchWord = some w ∧ ((∃ nnn, decodeWord w = .ok (.ldI nnn)) ∨
        ∃ x, decodeWord w = .ok (.addI x) ∨ decodeWord w = .ok (.ldF x)))

/-! ## The step -/

/-- R100, R104, R105, R198 (the step as one instruction tick: log entry 6): while the block runs, a fetched word that
decodes to `i` makes the step `exec i` on the state with pc advanced by 2, then the scheduler's accrual, and the next
cycle's sample. -/
def Obligations.StepRunsTheDecodedInstruction : Prop :=
  ∀ (s : State) (i : Instr), s.halted = false → s.pc.toNat + 1 ≤ 4095 →
    decodeWord (wordOfBytes (s.mem.read s.pc.toNat) (s.mem.read (s.pc.toNat + 1))) = .ok i →
    step s = onNext (fun t => (if t.halted then t else t.accrue).nextSample) (exec i { s with pc := s.pc + 2 })

/-- R102 (the spec's D15): a fetch that needs a byte above 4095 faults; pc is not advanced, and the fault records pc and
word 0. -/
def Obligations.FetchOffMemoryFaults : Prop :=
  ∀ s : State, s.halted = false → s.pc.toNat ≥ 4095 →
    step s = .next { s with
      halted := true, lastFault := ⟨.outOfBoundsAccess, s.pc, 0⟩, feed := s.feed.tail, draws := s.draws + 1 }

/-- R216, R221: without DEBUG_MODE an invalid word halts the block, with pc advanced past it, and changes nothing else. -/
def Obligations.InvalidOpcodeHalts : Prop :=
  ∀ (s : State) (w : Word), s.halted = false → s.debugMode = false → s.fetchWord = some w →
    (∀ i, decodeWord w ≠ .ok i) →
    step s = .next { s with
      pc := s.pc + 2, halted := true, lastFault := ⟨.invalidOpcode, s.pc, w⟩, feed := s.feed.tail, draws := s.draws + 1 }

/-- R224 (the form of the log: the spec's D18): under DEBUG_MODE an invalid word is logged and executed as a no-op that
accrues timer time. -/
def Obligations.DebugModeLogsInvalidOpcode : Prop :=
  ∀ (s : State) (w : Word), s.halted = false → s.debugMode = true → s.fetchWord = some w →
    (∀ i, decodeWord w ≠ .ok i) →
    step s = .next (State.nextSample (State.accrue { s with pc := s.pc + 2, lastFault := ⟨.invalidOpcode, s.pc, w⟩ }))

/-- R101, R204 (a Frame of a halted block changes nothing: the spec's D19; the stuck step: log entry 7): a halted block
executes nothing. -/
def Obligations.HaltedBlockDoesNothing : Prop :=
  ∀ (s : State) (dt : Rat), s.halted = true → step s = .fault .halted ∧ (0 ≤ dt → frame dt s = .next s)

/-- R264 (derived there), R12: a block that is not halted always has a next state; no instruction blocks and no ordinary
data ends a run by a fault or a refusal. -/
def Obligations.RunningBlockAlwaysSteps : Prop :=
  ∀ s : State, s.halted = false → ∃ t, step s = .next t

/-- R222, R223 (D2, D15, D17): when a step halts the block, every piece of state but pc, `halted` and `last_fault` is as
before (the inputs move on); pc is the fetch address + 2, with that address recorded, or for a fetch fault the fetch
address itself. -/
def Obligations.FaultsArePrecise : Prop :=
  ∀ s t : State, step s = .next t → t.halted = true →
    t.lastFault.addr = s.pc ∧ t.lastFault.code ≠ .noFault ∧ t.lastFault.code ≠ .loadTooLarge ∧
    (t.pc = s.pc + 2 ∨ (t.pc = s.pc ∧ s.pc.toNat ≥ 4095)) ∧
    t = { s with
      pc := t.pc, halted := true, lastFault := t.lastFault, feed := s.feed.tail, draws := s.draws + 1 }

/-! ## Invariant -/

/-- The invariant `Inv` (memory canonical, pc at most 0x10FE, the timer phase below one timer period, the fault status
consistent, ...) is kept by every step from every state that has it. -/
def Obligations.StepKeepsTheInvariant : Prop :=
  ∀ s t : State, Inv s → step s = .next t → Inv t

/-- R247 (D26): every state that a Reset command produces has the invariant, from whatever state and under whatever
positive clock, with any program, one that is too long included (D25), and any font; and so has `State.reset`, which
holds no program (the model's choice: log entry 1). -/
def Obligations.ResetStateHasTheInvariant : Prop :=
  (∀ (s : State) (program : List Byte) (font : Vector Byte 80), 0 < s.clockFrequency →
    Inv (s.resetCommand program font)) ∧ Inv State.reset

/-- A Frame keeps the invariant, of which R34's bound on `acc_cpu` between Frames is a part. -/
def Obligations.FrameKeepsTheInvariant : Prop :=
  ∀ (s t : State) (dt : Rat), Inv s → frame dt s = .next t → Inv t

/-! ## Reset command -/

/-- R245, R250 (halted, last_fault and the accumulators cleared: the spec's D24; sp: D6): a Reset command with a program
of at most 3584 bytes leaves every register, the stack, the timers, the screen, the status and the accumulators at
zero, pc at 512 and the configuration untouched. -/
def Obligations.ResetClearsTheState : Prop :=
  ∀ (s t : State) (program : List Byte) (font : Vector Byte 80), program.length ≤ 3584 →
    t = s.resetCommand program font →
    (∀ r : Reg, t.V[r] = 0) ∧ t.I = 0 ∧ t.pc = 512 ∧ t.sp = 0 ∧ (∀ k : Fin 128, t.stack[k] = 0) ∧
    t.DT = 0 ∧ t.ST = 0 ∧ t.soundActive = false ∧ (∀ x y, t.fb.pixel x y = false) ∧ t.halted = false ∧
    t.lastFault = ⟨.noFault, 0, 0⟩ ∧ t.accCpu = 0 ∧ t.accTimer = 0 ∧
    t.clockFrequency = s.clockFrequency ∧ t.debugMode = s.debugMode ∧ t.fontBase = s.fontBase

/-- R61 (FONT_BASE any of its range: D3): the map after a Reset command: the font at FONT_BASE, the program at 512, 0
everywhere else; and memory is in its canonical form. -/
def Obligations.ResetMemoryMap : Prop :=
  ∀ (s : State) (program : List Byte) (font : Vector Byte 80), program.length ≤ 3584 →
    (s.resetCommand program font).mem.wf = true ∧
    (∀ k : Fin 80, (s.resetCommand program font).mem.read (s.fontBase.val + k.val) = font[k]) ∧
    (∀ j : Fin program.length, (s.resetCommand program font).mem.read (512 + j.val) = program[j]) ∧
    (∀ a, ¬ (s.fontBase.val ≤ a ∧ a < s.fontBase.val + 80) → ¬ (512 ≤ a ∧ a < 512 + program.length) →
      (s.resetCommand program font).mem.read a = 0)

/-- R246, R220 (the state left: the spec's D25; the status and the accumulators: D24): a longer program loads nothing and
halts the block with LoadTooLarge; all else is zeroed as by a Reset that succeeds, and pc is 512. -/
def Obligations.ResetWithTooLongAProgramHalts : Prop :=
  ∀ (s t : State) (program : List Byte) (font : Vector Byte 80), program.length > 3584 →
    t = s.resetCommand program font →
    t.halted = true ∧ t.lastFault = ⟨.loadTooLarge, 0, 0⟩ ∧ t.pc = 512 ∧ (∀ a, t.mem.read a = 0) ∧ t.mem.wf = true ∧
    (∀ r : Reg, t.V[r] = 0) ∧ t.I = 0 ∧ t.sp = 0 ∧ (∀ k : Fin 128, t.stack[k] = 0) ∧ t.DT = 0 ∧ t.ST = 0 ∧
    t.soundActive = false ∧ (∀ x y, t.fb.pixel x y = false) ∧ t.accCpu = 0 ∧ t.accTimer = 0 ∧
    t.clockFrequency = s.clockFrequency ∧ t.debugMode = s.debugMode ∧ t.fontBase = s.fontBase

/-- R249, R245 (the accumulators and the fault status too: the spec's D24; `State.reset`: log entry 1): nothing of the
previous program, its registers, stack, screen, timers or fault remains: the state is `State.reset` with the font and
the program loaded, but for the configuration and the samples the host has lined up, which a Reset does not touch. -/
def Obligations.ResetForgetsThePreviousState : Prop :=
  ∀ (s : State) (program : List Byte) (font : Vector Byte 80), program.length ≤ 3584 →
    s.resetCommand program font =
      { State.reset with
        mem := loadedMemory s.fontBase program font
        clockFrequency := s.clockFrequency, debugMode := s.debugMode, fontBase := s.fontBase
        feed := s.feed, draws := s.draws }

/-- R231, R247 (D26), R208 (D34), R36 (D30; the form of the commands: DESIGN CHOICE, log entries 12, 13). Refused: a
Frame before the first Reset, a negative delta, a clock that is not positive (given with a Reset, set before the first
one, or present at a Reset that gives none), and a change of the clock between Reset commands. Not refused: a Frame of a
loaded block, which is `frame`; a Reset under a positive clock, from any block, which is the Reset command of R245 under
that clock (the samples lined up stay: log entry 11); before the first Reset a positive clock, and at any time a sample
lined up and DEBUG_MODE set, which the machine then has. -/
def Obligations.CommandsOutsideTheContractAreRefused : Prop :=
  (∀ dt c, command (.frame dt) (.fresh c) = .refused .beforeFirstReset) ∧
  (∀ dt s, dt < 0 → command (.frame dt) (.loaded s) = .refused .negativeDelta) ∧
  (∀ dt s, command (.frame dt) (.loaded s) = loadedOutcome (frame dt s)) ∧
  (∀ f s, command (.setClockFrequency f) (.loaded s) = .refused .clockFixedUntilReset) ∧
  (∀ f c, ¬ 0 < f → command (.setClockFrequency f) (.fresh c) = .refused .clockNotPositive) ∧
  (∀ f b program font, ¬ 0 < f → command (.reset (some f) program font) b = .refused .clockNotPositive) ∧
  (∀ f b program font, 0 < f →
    command (.reset (some f) program font) b =
      .next (.loaded (State.resetCommand program font { b.underReset with clockFrequency := f }))) ∧
  (∀ b program font, ¬ 0 < b.underReset.clockFrequency →
    command (.reset none program font) b = .refused .clockNotPositive) ∧
  (∀ b program font, 0 < b.underReset.clockFrequency →
    command (.reset none program font) b = .next (.loaded (b.underReset.resetCommand program font))) ∧
  (∀ s, (Block.loaded s).underReset = s) ∧
  (∀ c, (Block.fresh c).underReset.clockFrequency = c.clockFrequency ∧
    (Block.fresh c).underReset.debugMode = c.debugMode ∧ (Block.fresh c).underReset.fontBase = c.fontBase ∧
    (Block.fresh c).underReset.feed = c.feed ∧ (Block.fresh c).underReset.draws = c.draws) ∧
  (∀ f c program font, 0 < f → ∃ b t, command (.setClockFrequency f) (.fresh c) = .next b ∧
    command (.reset none program font) b = .next (.loaded t) ∧ t.clockFrequency = f) ∧
  (∀ on c program font, 0 < c.clockFrequency → ∃ b t, command (.setDebugMode on) (.fresh c) = .next b ∧
    command (.reset none program font) b = .next (.loaded t) ∧ t.debugMode = on) ∧
  (∀ xs c program font, 0 < c.clockFrequency → ∃ b t, command (.lineUp xs) (.fresh c) = .next b ∧
    command (.reset none program font) b = .next (.loaded t) ∧ t.feed = c.feed ++ xs) ∧
  (∀ on s, command (.setDebugMode on) (.loaded s) = .next (.loaded { s with debugMode := on })) ∧
  (∀ xs s, command (.lineUp xs) (.loaded s) = .next (.loaded { s with feed := s.feed ++ xs }))

/-! ## Scheduler -/

/-- R201: the timer tick decrements both timers, floored at 0, and changes nothing else. -/
def Obligations.TimerTickDecrementsBoth : Prop :=
  ∀ s : State, s.timerTick.DT.toNat = s.DT.toNat - 1 ∧ s.timerTick.ST.toNat = s.ST.toNat - 1 ∧
    OnlyWrites { delay := true, sound := true } s s.timerTick

/-- R199, R200 in seconds (exact arithmetic and the comparison ≥: the spec's D21, D23; the phase as an integer: log entry
5): one completed cycle adds one instruction period to `acc_timer`; then one tick for each timer period that fits leaves
it below one timer period, and both timers have lost one for each. -/
def Obligations.AccrualDeliversTheDueTicks : Prop :=
  ∀ s : State, 0 < s.clockFrequency → ∃ n : Nat,
    s.accrue.accTimer = s.accTimer + s.instructionPeriod - n * timerPeriod ∧
    0 ≤ s.accrue.accTimer ∧ s.accrue.accTimer < timerPeriod ∧
    s.accrue.DT.toNat = s.DT.toNat - n ∧ s.accrue.ST.toNat = s.ST.toNat - n ∧
    s.accrue = { s with DT := s.accrue.DT, ST := s.accrue.ST, timerPhase := s.accrue.timerPhase }

/-- R205 (derived there), R206 (exact time, one period for each cycle, the comparison ≥: D21 to D23, DESIGN CHOICE, log
entry 16): from a clear phase, k completed cycles deliver floor(60·k / CLOCK_FREQUENCY) ticks: the
timers have lost that many, floored at 0, and `acc_timer` holds the rest. -/
def Obligations.TicksAfterManyCycles : Prop :=
  ∀ (k : Nat) (s : State), 0 < s.clockFrequency → s.timerPhase = 0 →
    (State.accrue^[k] s).DT.toNat = s.DT.toNat - (60 * k / s.clockFrequency).floor.toNat ∧
    (State.accrue^[k] s).ST.toNat = s.ST.toNat - (60 * k / s.clockFrequency).floor.toNat ∧
    (State.accrue^[k] s).accTimer = k / s.clockFrequency - ((60 * k / s.clockFrequency).floor.toNat : Rat) / 60

/-- R205 over the machine (derived there; D21 to D23, DESIGN CHOICE, log entry 16): after k steps that do not halt the block, from a clear phase, `acc_timer` is
k / CLOCK_FREQUENCY less 1/60 for each of the floor(60·k / CLOCK_FREQUENCY) ticks, whatever the instructions were. -/
def Obligations.TimerPhaseDependsOnlyOnTheNumberOfSteps : Prop :=
  ∀ (k : Nat) (s t : State), 0 < s.clockFrequency → s.timerPhase = 0 →
    Host.Core.run Sys2Proof.core k s = .next t → t.halted = false →
    t.accTimer = k / s.clockFrequency - ((60 * k / s.clockFrequency).floor.toNat : Rat) / 60

/-- R197, R198, R204 (after a fault: the spec's D20): a Frame is a run of steps, floor((acc_cpu + dt) / P) of them unless
one halts the block, which is then the last; each spends one instruction period of `acc_cpu`, which the steps
themselves neither read nor write. -/
def Obligations.FrameIsThatManySteps : Prop :=
  ∀ (s : State) (dt : Rat), s.halted = false → 0 < s.clockFrequency → 0 ≤ s.accCpu → 0 ≤ dt →
    ∃ t m, frame dt s = .next t ∧ m ≤ ((s.accCpu + dt) / s.instructionPeriod).floor.toNat ∧
      Host.Core.run Sys2Proof.core m s = .next { t with accCpu := s.accCpu } ∧
      t.accCpu = s.accCpu + dt - m * s.instructionPeriod ∧
      (t.halted = false → m = ((s.accCpu + dt) / s.instructionPeriod).floor.toNat)

/-- R203 (derived there, for Frames without a fault in the first): two Frames do what one Frame of the summed delta
does. -/
def Obligations.FramesAddUp : Prop :=
  ∀ (s t : State) (a b : Rat), 0 < s.clockFrequency → 0 ≤ s.accCpu → 0 ≤ a → 0 ≤ b →
    frame a s = .next t → t.halted = false → frame b t = frame (a + b) s

/-- R210 (derived there; log entry 6): while less than one instruction period is saved up, a Frame of exactly one
instruction period is one step. -/
def Obligations.FrameOfOnePeriodIsOneStep : Prop :=
  ∀ s : State, s.halted = false → 0 < s.clockFrequency → 0 ≤ s.accCpu → s.accCpu < s.instructionPeriod →
    frame s.instructionPeriod s = step s
end

