-- ==== Sys2Proof/Laws/Commands.lean ====
section
/-! SUPPORT. What the commands of the host can do, said once. -/

namespace Sys2Proof.Machine

variable (s : State) (f : Rat)

@[simp] theorem withClock_clockFrequency : (s.withClock f).clockFrequency = f := rfl
@[simp] theorem withClock_debugMode : (s.withClock f).debugMode = s.debugMode := rfl
@[simp] theorem withClock_fontBase : (s.withClock f).fontBase = s.fontBase := rfl
@[simp] theorem withClock_feed : (s.withClock f).feed = s.feed := rfl
@[simp] theorem withClock_draws : (s.withClock f).draws = s.draws := rfl

@[simp] theorem underReset_loaded : (Block.loaded s).underReset = s := rfl

/-- A program that fits: the zeroed state with font and program loaded (R245). -/
theorem resetCommand_of_le {program : List Byte} {font : Vector Byte 80} (h : program.length ≤ 3584) :
    s.resetCommand program font = { s.zeroed with mem := loadedMemory s.fontBase program font } := if_pos h

/-- A program that does not: the zeroed state, halted with LoadTooLarge (R246). -/
theorem resetCommand_of_gt {program : List Byte} {font : Vector Byte 80} (h : 3584 < program.length) :
    s.resetCommand program font = { s.zeroed with halted := true, lastFault := ⟨.loadTooLarge, 0, 0⟩ } :=
  if_neg (Nat.not_le.mpr h)

/-- A Reset command leaves the configuration and the inputs (R36), whatever the program. -/
theorem resetCommand_keeps (program : List Byte) (font : Vector Byte 80) :
    (s.resetCommand program font).clockFrequency = s.clockFrequency ∧
    (s.resetCommand program font).debugMode = s.debugMode ∧ (s.resetCommand program font).fontBase = s.fontBase ∧
    (s.resetCommand program font).feed = s.feed ∧ (s.resetCommand program font).draws = s.draws := by
  unfold State.resetCommand
  split <;> exact ⟨rfl, rfl, rfl, rfl, rfl⟩

/-- The Reset command of a block loads the machine under a positive clock, or is refused. -/
theorem resetBlock_cases (clock : Option Rat) (program : List Byte) (font : Vector Byte 80) (b : Block) :
    (0 < clock.getD b.underReset.clockFrequency ∧ resetBlock clock program font b =
      .next (.loaded
        (State.resetCommand program font (b.underReset.withClock (clock.getD b.underReset.clockFrequency))))) ∨
    (¬ 0 < clock.getD b.underReset.clockFrequency ∧ resetBlock clock program font b = .refused .clockNotPositive) := by
  unfold resetBlock
  split
  · exact .inl ⟨‹_›, rfl⟩
  · exact .inr ⟨‹_›, rfl⟩

end Sys2Proof.Machine
end

