-- ==== Sys2Proof/Laws/State.lean ====
section
/-! SUPPORT. One lemma per field of State and per update of it: what the field holds afterwards. -/

namespace Sys2Proof.Machine.State

variable (s : State)

@[simp] theorem setReg_V (x : Reg) (b : Byte) : (s.setReg x b).V = s.V.set x.val b x.isLt := rfl
@[simp] theorem setReg_I (x : Reg) (b : Byte) : (s.setReg x b).I = s.I := rfl
@[simp] theorem setReg_pc (x : Reg) (b : Byte) : (s.setReg x b).pc = s.pc := rfl
@[simp] theorem setReg_sp (x : Reg) (b : Byte) : (s.setReg x b).sp = s.sp := rfl
@[simp] theorem setReg_stack (x : Reg) (b : Byte) : (s.setReg x b).stack = s.stack := rfl
@[simp] theorem setReg_DT (x : Reg) (b : Byte) : (s.setReg x b).DT = s.DT := rfl
@[simp] theorem setReg_ST (x : Reg) (b : Byte) : (s.setReg x b).ST = s.ST := rfl
@[simp] theorem setReg_mem (x : Reg) (b : Byte) : (s.setReg x b).mem = s.mem := rfl
@[simp] theorem setReg_fb (x : Reg) (b : Byte) : (s.setReg x b).fb = s.fb := rfl
@[simp] theorem setReg_halted (x : Reg) (b : Byte) : (s.setReg x b).halted = s.halted := rfl
@[simp] theorem setReg_lastFault (x : Reg) (b : Byte) : (s.setReg x b).lastFault = s.lastFault := rfl
@[simp] theorem setReg_accCpu (x : Reg) (b : Byte) : (s.setReg x b).accCpu = s.accCpu := rfl
@[simp] theorem setReg_timerPhase (x : Reg) (b : Byte) : (s.setReg x b).timerPhase = s.timerPhase := rfl
@[simp] theorem setReg_clockFrequency (x : Reg) (b : Byte) : (s.setReg x b).clockFrequency = s.clockFrequency := rfl
@[simp] theorem setReg_debugMode (x : Reg) (b : Byte) : (s.setReg x b).debugMode = s.debugMode := rfl
@[simp] theorem setReg_fontBase (x : Reg) (b : Byte) : (s.setReg x b).fontBase = s.fontBase := rfl
@[simp] theorem setReg_feed (x : Reg) (b : Byte) : (s.setReg x b).feed = s.feed := rfl
@[simp] theorem setReg_draws (x : Reg) (b : Byte) : (s.setReg x b).draws = s.draws := rfl

@[simp] theorem setI_V (a : Word) : (s.setI a).V = s.V := rfl
@[simp] theorem setI_I (a : Word) : (s.setI a).I = a := rfl
@[simp] theorem setI_pc (a : Word) : (s.setI a).pc = s.pc := rfl
@[simp] theorem setI_sp (a : Word) : (s.setI a).sp = s.sp := rfl
@[simp] theorem setI_stack (a : Word) : (s.setI a).stack = s.stack := rfl
@[simp] theorem setI_DT (a : Word) : (s.setI a).DT = s.DT := rfl
@[simp] theorem setI_ST (a : Word) : (s.setI a).ST = s.ST := rfl
@[simp] theorem setI_mem (a : Word) : (s.setI a).mem = s.mem := rfl
@[simp] theorem setI_fb (a : Word) : (s.setI a).fb = s.fb := rfl
@[simp] theorem setI_halted (a : Word) : (s.setI a).halted = s.halted := rfl
@[simp] theorem setI_lastFault (a : Word) : (s.setI a).lastFault = s.lastFault := rfl
@[simp] theorem setI_accCpu (a : Word) : (s.setI a).accCpu = s.accCpu := rfl
@[simp] theorem setI_timerPhase (a : Word) : (s.setI a).timerPhase = s.timerPhase := rfl
@[simp] theorem setI_clockFrequency (a : Word) : (s.setI a).clockFrequency = s.clockFrequency := rfl
@[simp] theorem setI_debugMode (a : Word) : (s.setI a).debugMode = s.debugMode := rfl
@[simp] theorem setI_fontBase (a : Word) : (s.setI a).fontBase = s.fontBase := rfl
@[simp] theorem setI_feed (a : Word) : (s.setI a).feed = s.feed := rfl
@[simp] theorem setI_draws (a : Word) : (s.setI a).draws = s.draws := rfl

@[simp] theorem setPc_V (a : Word) : (s.setPc a).V = s.V := rfl
@[simp] theorem setPc_I (a : Word) : (s.setPc a).I = s.I := rfl
@[simp] theorem setPc_pc (a : Word) : (s.setPc a).pc = a := rfl
@[simp] theorem setPc_sp (a : Word) : (s.setPc a).sp = s.sp := rfl
@[simp] theorem setPc_stack (a : Word) : (s.setPc a).stack = s.stack := rfl
@[simp] theorem setPc_DT (a : Word) : (s.setPc a).DT = s.DT := rfl
@[simp] theorem setPc_ST (a : Word) : (s.setPc a).ST = s.ST := rfl
@[simp] theorem setPc_mem (a : Word) : (s.setPc a).mem = s.mem := rfl
@[simp] theorem setPc_fb (a : Word) : (s.setPc a).fb = s.fb := rfl
@[simp] theorem setPc_halted (a : Word) : (s.setPc a).halted = s.halted := rfl
@[simp] theorem setPc_lastFault (a : Word) : (s.setPc a).lastFault = s.lastFault := rfl
@[simp] theorem setPc_accCpu (a : Word) : (s.setPc a).accCpu = s.accCpu := rfl
@[simp] theorem setPc_timerPhase (a : Word) : (s.setPc a).timerPhase = s.timerPhase := rfl
@[simp] theorem setPc_clockFrequency (a : Word) : (s.setPc a).clockFrequency = s.clockFrequency := rfl
@[simp] theorem setPc_debugMode (a : Word) : (s.setPc a).debugMode = s.debugMode := rfl
@[simp] theorem setPc_fontBase (a : Word) : (s.setPc a).fontBase = s.fontBase := rfl
@[simp] theorem setPc_feed (a : Word) : (s.setPc a).feed = s.feed := rfl
@[simp] theorem setPc_draws (a : Word) : (s.setPc a).draws = s.draws := rfl

@[simp] theorem advancePc_V : (s.advancePc).V = s.V := rfl
@[simp] theorem advancePc_I : (s.advancePc).I = s.I := rfl
@[simp] theorem advancePc_pc : (s.advancePc).pc = s.pc + 2 := rfl
@[simp] theorem advancePc_sp : (s.advancePc).sp = s.sp := rfl
@[simp] theorem advancePc_stack : (s.advancePc).stack = s.stack := rfl
@[simp] theorem advancePc_DT : (s.advancePc).DT = s.DT := rfl
@[simp] theorem advancePc_ST : (s.advancePc).ST = s.ST := rfl
@[simp] theorem advancePc_mem : (s.advancePc).mem = s.mem := rfl
@[simp] theorem advancePc_fb : (s.advancePc).fb = s.fb := rfl
@[simp] theorem advancePc_halted : (s.advancePc).halted = s.halted := rfl
@[simp] theorem advancePc_lastFault : (s.advancePc).lastFault = s.lastFault := rfl
@[simp] theorem advancePc_accCpu : (s.advancePc).accCpu = s.accCpu := rfl
@[simp] theorem advancePc_timerPhase : (s.advancePc).timerPhase = s.timerPhase := rfl
@[simp] theorem advancePc_clockFrequency : (s.advancePc).clockFrequency = s.clockFrequency := rfl
@[simp] theorem advancePc_debugMode : (s.advancePc).debugMode = s.debugMode := rfl
@[simp] theorem advancePc_fontBase : (s.advancePc).fontBase = s.fontBase := rfl
@[simp] theorem advancePc_feed : (s.advancePc).feed = s.feed := rfl
@[simp] theorem advancePc_draws : (s.advancePc).draws = s.draws := rfl

@[simp] theorem skip_V : (s.skip).V = s.V := rfl
@[simp] theorem skip_I : (s.skip).I = s.I := rfl
@[simp] theorem skip_pc : (s.skip).pc = s.pc + 2 := rfl
@[simp] theorem skip_sp : (s.skip).sp = s.sp := rfl
@[simp] theorem skip_stack : (s.skip).stack = s.stack := rfl
@[simp] theorem skip_DT : (s.skip).DT = s.DT := rfl
@[simp] theorem skip_ST : (s.skip).ST = s.ST := rfl
@[simp] theorem skip_mem : (s.skip).mem = s.mem := rfl
@[simp] theorem skip_fb : (s.skip).fb = s.fb := rfl
@[simp] theorem skip_halted : (s.skip).halted = s.halted := rfl
@[simp] theorem skip_lastFault : (s.skip).lastFault = s.lastFault := rfl
@[simp] theorem skip_accCpu : (s.skip).accCpu = s.accCpu := rfl
@[simp] theorem skip_timerPhase : (s.skip).timerPhase = s.timerPhase := rfl
@[simp] theorem skip_clockFrequency : (s.skip).clockFrequency = s.clockFrequency := rfl
@[simp] theorem skip_debugMode : (s.skip).debugMode = s.debugMode := rfl
@[simp] theorem skip_fontBase : (s.skip).fontBase = s.fontBase := rfl
@[simp] theorem skip_feed : (s.skip).feed = s.feed := rfl
@[simp] theorem skip_draws : (s.skip).draws = s.draws := rfl

@[simp] theorem rewind_V : (s.rewind).V = s.V := rfl
@[simp] theorem rewind_I : (s.rewind).I = s.I := rfl
@[simp] theorem rewind_pc : (s.rewind).pc = s.pc - 2 := rfl
@[simp] theorem rewind_sp : (s.rewind).sp = s.sp := rfl
@[simp] theorem rewind_stack : (s.rewind).stack = s.stack := rfl
@[simp] theorem rewind_DT : (s.rewind).DT = s.DT := rfl
@[simp] theorem rewind_ST : (s.rewind).ST = s.ST := rfl
@[simp] theorem rewind_mem : (s.rewind).mem = s.mem := rfl
@[simp] theorem rewind_fb : (s.rewind).fb = s.fb := rfl
@[simp] theorem rewind_halted : (s.rewind).halted = s.halted := rfl
@[simp] theorem rewind_lastFault : (s.rewind).lastFault = s.lastFault := rfl
@[simp] theorem rewind_accCpu : (s.rewind).accCpu = s.accCpu := rfl
@[simp] theorem rewind_timerPhase : (s.rewind).timerPhase = s.timerPhase := rfl
@[simp] theorem rewind_clockFrequency : (s.rewind).clockFrequency = s.clockFrequency := rfl
@[simp] theorem rewind_debugMode : (s.rewind).debugMode = s.debugMode := rfl
@[simp] theorem rewind_fontBase : (s.rewind).fontBase = s.fontBase := rfl
@[simp] theorem rewind_feed : (s.rewind).feed = s.feed := rfl
@[simp] theorem rewind_draws : (s.rewind).draws = s.draws := rfl

@[simp] theorem setDT_V (b : Byte) : (s.setDT b).V = s.V := rfl
@[simp] theorem setDT_I (b : Byte) : (s.setDT b).I = s.I := rfl
@[simp] theorem setDT_pc (b : Byte) : (s.setDT b).pc = s.pc := rfl
@[simp] theorem setDT_sp (b : Byte) : (s.setDT b).sp = s.sp := rfl
@[simp] theorem setDT_stack (b : Byte) : (s.setDT b).stack = s.stack := rfl
@[simp] theorem setDT_DT (b : Byte) : (s.setDT b).DT = b := rfl
@[simp] theorem setDT_ST (b : Byte) : (s.setDT b).ST = s.ST := rfl
@[simp] theorem setDT_mem (b : Byte) : (s.setDT b).mem = s.mem := rfl
@[simp] theorem setDT_fb (b : Byte) : (s.setDT b).fb = s.fb := rfl
@[simp] theorem setDT_halted (b : Byte) : (s.setDT b).halted = s.halted := rfl
@[simp] theorem setDT_lastFault (b : Byte) : (s.setDT b).lastFault = s.lastFault := rfl
@[simp] theorem setDT_accCpu (b : Byte) : (s.setDT b).accCpu = s.accCpu := rfl
@[simp] theorem setDT_timerPhase (b : Byte) : (s.setDT b).timerPhase = s.timerPhase := rfl
@[simp] theorem setDT_clockFrequency (b : Byte) : (s.setDT b).clockFrequency = s.clockFrequency := rfl
@[simp] theorem setDT_debugMode (b : Byte) : (s.setDT b).debugMode = s.debugMode := rfl
@[simp] theorem setDT_fontBase (b : Byte) : (s.setDT b).fontBase = s.fontBase := rfl
@[simp] theorem setDT_feed (b : Byte) : (s.setDT b).feed = s.feed := rfl
@[simp] theorem setDT_draws (b : Byte) : (s.setDT b).draws = s.draws := rfl

@[simp] theorem setST_V (b : Byte) : (s.setST b).V = s.V := rfl
@[simp] theorem setST_I (b : Byte) : (s.setST b).I = s.I := rfl
@[simp] theorem setST_pc (b : Byte) : (s.setST b).pc = s.pc := rfl
@[simp] theorem setST_sp (b : Byte) : (s.setST b).sp = s.sp := rfl
@[simp] theorem setST_stack (b : Byte) : (s.setST b).stack = s.stack := rfl
@[simp] theorem setST_DT (b : Byte) : (s.setST b).DT = s.DT := rfl
@[simp] theorem setST_ST (b : Byte) : (s.setST b).ST = b := rfl
@[simp] theorem setST_mem (b : Byte) : (s.setST b).mem = s.mem := rfl
@[simp] theorem setST_fb (b : Byte) : (s.setST b).fb = s.fb := rfl
@[simp] theorem setST_halted (b : Byte) : (s.setST b).halted = s.halted := rfl
@[simp] theorem setST_lastFault (b : Byte) : (s.setST b).lastFault = s.lastFault := rfl
@[simp] theorem setST_accCpu (b : Byte) : (s.setST b).accCpu = s.accCpu := rfl
@[simp] theorem setST_timerPhase (b : Byte) : (s.setST b).timerPhase = s.timerPhase := rfl
@[simp] theorem setST_clockFrequency (b : Byte) : (s.setST b).clockFrequency = s.clockFrequency := rfl
@[simp] theorem setST_debugMode (b : Byte) : (s.setST b).debugMode = s.debugMode := rfl
@[simp] theorem setST_fontBase (b : Byte) : (s.setST b).fontBase = s.fontBase := rfl
@[simp] theorem setST_feed (b : Byte) : (s.setST b).feed = s.feed := rfl
@[simp] theorem setST_draws (b : Byte) : (s.setST b).draws = s.draws := rfl

@[simp] theorem setMem_V (m : Memory) : (s.setMem m).V = s.V := rfl
@[simp] theorem setMem_I (m : Memory) : (s.setMem m).I = s.I := rfl
@[simp] theorem setMem_pc (m : Memory) : (s.setMem m).pc = s.pc := rfl
@[simp] theorem setMem_sp (m : Memory) : (s.setMem m).sp = s.sp := rfl
@[simp] theorem setMem_stack (m : Memory) : (s.setMem m).stack = s.stack := rfl
@[simp] theorem setMem_DT (m : Memory) : (s.setMem m).DT = s.DT := rfl
@[simp] theorem setMem_ST (m : Memory) : (s.setMem m).ST = s.ST := rfl
@[simp] theorem setMem_mem (m : Memory) : (s.setMem m).mem = m := rfl
@[simp] theorem setMem_fb (m : Memory) : (s.setMem m).fb = s.fb := rfl
@[simp] theorem setMem_halted (m : Memory) : (s.setMem m).halted = s.halted := rfl
@[simp] theorem setMem_lastFault (m : Memory) : (s.setMem m).lastFault = s.lastFault := rfl
@[simp] theorem setMem_accCpu (m : Memory) : (s.setMem m).accCpu = s.accCpu := rfl
@[simp] theorem setMem_timerPhase (m : Memory) : (s.setMem m).timerPhase = s.timerPhase := rfl
@[simp] theorem setMem_clockFrequency (m : Memory) : (s.setMem m).clockFrequency = s.clockFrequency := rfl
@[simp] theorem setMem_debugMode (m : Memory) : (s.setMem m).debugMode = s.debugMode := rfl
@[simp] theorem setMem_fontBase (m : Memory) : (s.setMem m).fontBase = s.fontBase := rfl
@[simp] theorem setMem_feed (m : Memory) : (s.setMem m).feed = s.feed := rfl
@[simp] theorem setMem_draws (m : Memory) : (s.setMem m).draws = s.draws := rfl

@[simp] theorem setFb_V (f : Framebuffer) : (s.setFb f).V = s.V := rfl
@[simp] theorem setFb_I (f : Framebuffer) : (s.setFb f).I = s.I := rfl
@[simp] theorem setFb_pc (f : Framebuffer) : (s.setFb f).pc = s.pc := rfl
@[simp] theorem setFb_sp (f : Framebuffer) : (s.setFb f).sp = s.sp := rfl
@[simp] theorem setFb_stack (f : Framebuffer) : (s.setFb f).stack = s.stack := rfl
@[simp] theorem setFb_DT (f : Framebuffer) : (s.setFb f).DT = s.DT := rfl
@[simp] theorem setFb_ST (f : Framebuffer) : (s.setFb f).ST = s.ST := rfl
@[simp] theorem setFb_mem (f : Framebuffer) : (s.setFb f).mem = s.mem := rfl
@[simp] theorem setFb_fb (f : Framebuffer) : (s.setFb f).fb = f := rfl
@[simp] theorem setFb_halted (f : Framebuffer) : (s.setFb f).halted = s.halted := rfl
@[simp] theorem setFb_lastFault (f : Framebuffer) : (s.setFb f).lastFault = s.lastFault := rfl
@[simp] theorem setFb_accCpu (f : Framebuffer) : (s.setFb f).accCpu = s.accCpu := rfl
@[simp] theorem setFb_timerPhase (f : Framebuffer) : (s.setFb f).timerPhase = s.timerPhase := rfl
@[simp] theorem setFb_clockFrequency (f : Framebuffer) : (s.setFb f).clockFrequency = s.clockFrequency := rfl
@[simp] theorem setFb_debugMode (f : Framebuffer) : (s.setFb f).debugMode = s.debugMode := rfl
@[simp] theorem setFb_fontBase (f : Framebuffer) : (s.setFb f).fontBase = s.fontBase := rfl
@[simp] theorem setFb_feed (f : Framebuffer) : (s.setFb f).feed = s.feed := rfl
@[simp] theorem setFb_draws (f : Framebuffer) : (s.setFb f).draws = s.draws := rfl

@[simp] theorem nextSample_V : (s.nextSample).V = s.V := rfl
@[simp] theorem nextSample_I : (s.nextSample).I = s.I := rfl
@[simp] theorem nextSample_pc : (s.nextSample).pc = s.pc := rfl
@[simp] theorem nextSample_sp : (s.nextSample).sp = s.sp := rfl
@[simp] theorem nextSample_stack : (s.nextSample).stack = s.stack := rfl
@[simp] theorem nextSample_DT : (s.nextSample).DT = s.DT := rfl
@[simp] theorem nextSample_ST : (s.nextSample).ST = s.ST := rfl
@[simp] theorem nextSample_mem : (s.nextSample).mem = s.mem := rfl
@[simp] theorem nextSample_fb : (s.nextSample).fb = s.fb := rfl
@[simp] theorem nextSample_halted : (s.nextSample).halted = s.halted := rfl
@[simp] theorem nextSample_lastFault : (s.nextSample).lastFault = s.lastFault := rfl
@[simp] theorem nextSample_accCpu : (s.nextSample).accCpu = s.accCpu := rfl
@[simp] theorem nextSample_timerPhase : (s.nextSample).timerPhase = s.timerPhase := rfl
@[simp] theorem nextSample_clockFrequency : (s.nextSample).clockFrequency = s.clockFrequency := rfl
@[simp] theorem nextSample_debugMode : (s.nextSample).debugMode = s.debugMode := rfl
@[simp] theorem nextSample_fontBase : (s.nextSample).fontBase = s.fontBase := rfl
@[simp] theorem nextSample_feed : (s.nextSample).feed = s.feed.tail := rfl
@[simp] theorem nextSample_draws : (s.nextSample).draws = s.draws + 1 := rfl

@[simp] theorem raise_V (c : FaultCode) (w : Word) : (s.raise c w).V = s.V := rfl
@[simp] theorem raise_I (c : FaultCode) (w : Word) : (s.raise c w).I = s.I := rfl
@[simp] theorem raise_pc (c : FaultCode) (w : Word) : (s.raise c w).pc = s.pc := rfl
@[simp] theorem raise_sp (c : FaultCode) (w : Word) : (s.raise c w).sp = s.sp := rfl
@[simp] theorem raise_stack (c : FaultCode) (w : Word) : (s.raise c w).stack = s.stack := rfl
@[simp] theorem raise_DT (c : FaultCode) (w : Word) : (s.raise c w).DT = s.DT := rfl
@[simp] theorem raise_ST (c : FaultCode) (w : Word) : (s.raise c w).ST = s.ST := rfl
@[simp] theorem raise_mem (c : FaultCode) (w : Word) : (s.raise c w).mem = s.mem := rfl
@[simp] theorem raise_fb (c : FaultCode) (w : Word) : (s.raise c w).fb = s.fb := rfl
@[simp] theorem raise_halted (c : FaultCode) (w : Word) : (s.raise c w).halted = true := rfl
@[simp] theorem raise_lastFault (c : FaultCode) (w : Word) : (s.raise c w).lastFault = ⟨c, s.pc - 2, w⟩ := rfl
@[simp] theorem raise_accCpu (c : FaultCode) (w : Word) : (s.raise c w).accCpu = s.accCpu := rfl
@[simp] theorem raise_timerPhase (c : FaultCode) (w : Word) : (s.raise c w).timerPhase = s.timerPhase := rfl
@[simp] theorem raise_clockFrequency (c : FaultCode) (w : Word) : (s.raise c w).clockFrequency = s.clockFrequency := rfl
@[simp] theorem raise_debugMode (c : FaultCode) (w : Word) : (s.raise c w).debugMode = s.debugMode := rfl
@[simp] theorem raise_fontBase (c : FaultCode) (w : Word) : (s.raise c w).fontBase = s.fontBase := rfl
@[simp] theorem raise_feed (c : FaultCode) (w : Word) : (s.raise c w).feed = s.feed := rfl
@[simp] theorem raise_draws (c : FaultCode) (w : Word) : (s.raise c w).draws = s.draws := rfl

@[simp] theorem raiseFetch_V : (s.raiseFetch).V = s.V := rfl
@[simp] theorem raiseFetch_I : (s.raiseFetch).I = s.I := rfl
@[simp] theorem raiseFetch_pc : (s.raiseFetch).pc = s.pc := rfl
@[simp] theorem raiseFetch_sp : (s.raiseFetch).sp = s.sp := rfl
@[simp] theorem raiseFetch_stack : (s.raiseFetch).stack = s.stack := rfl
@[simp] theorem raiseFetch_DT : (s.raiseFetch).DT = s.DT := rfl
@[simp] theorem raiseFetch_ST : (s.raiseFetch).ST = s.ST := rfl
@[simp] theorem raiseFetch_mem : (s.raiseFetch).mem = s.mem := rfl
@[simp] theorem raiseFetch_fb : (s.raiseFetch).fb = s.fb := rfl
@[simp] theorem raiseFetch_halted : (s.raiseFetch).halted = true := rfl
@[simp] theorem raiseFetch_lastFault : (s.raiseFetch).lastFault = ⟨.outOfBoundsAccess, s.pc, 0⟩ := rfl
@[simp] theorem raiseFetch_accCpu : (s.raiseFetch).accCpu = s.accCpu := rfl
@[simp] theorem raiseFetch_timerPhase : (s.raiseFetch).timerPhase = s.timerPhase := rfl
@[simp] theorem raiseFetch_clockFrequency : (s.raiseFetch).clockFrequency = s.clockFrequency := rfl
@[simp] theorem raiseFetch_debugMode : (s.raiseFetch).debugMode = s.debugMode := rfl
@[simp] theorem raiseFetch_fontBase : (s.raiseFetch).fontBase = s.fontBase := rfl
@[simp] theorem raiseFetch_feed : (s.raiseFetch).feed = s.feed := rfl
@[simp] theorem raiseFetch_draws : (s.raiseFetch).draws = s.draws := rfl

@[simp] theorem logInvalid_V (w : Word) : (s.logInvalid w).V = s.V := rfl
@[simp] theorem logInvalid_I (w : Word) : (s.logInvalid w).I = s.I := rfl
@[simp] theorem logInvalid_pc (w : Word) : (s.logInvalid w).pc = s.pc := rfl
@[simp] theorem logInvalid_sp (w : Word) : (s.logInvalid w).sp = s.sp := rfl
@[simp] theorem logInvalid_stack (w : Word) : (s.logInvalid w).stack = s.stack := rfl
@[simp] theorem logInvalid_DT (w : Word) : (s.logInvalid w).DT = s.DT := rfl
@[simp] theorem logInvalid_ST (w : Word) : (s.logInvalid w).ST = s.ST := rfl
@[simp] theorem logInvalid_mem (w : Word) : (s.logInvalid w).mem = s.mem := rfl
@[simp] theorem logInvalid_fb (w : Word) : (s.logInvalid w).fb = s.fb := rfl
@[simp] theorem logInvalid_halted (w : Word) : (s.logInvalid w).halted = s.halted := rfl
@[simp] theorem logInvalid_lastFault (w : Word) : (s.logInvalid w).lastFault = ⟨.invalidOpcode, s.pc - 2, w⟩ := rfl
@[simp] theorem logInvalid_accCpu (w : Word) : (s.logInvalid w).accCpu = s.accCpu := rfl
@[simp] theorem logInvalid_timerPhase (w : Word) : (s.logInvalid w).timerPhase = s.timerPhase := rfl
@[simp] theorem logInvalid_clockFrequency (w : Word) : (s.logInvalid w).clockFrequency = s.clockFrequency := rfl
@[simp] theorem logInvalid_debugMode (w : Word) : (s.logInvalid w).debugMode = s.debugMode := rfl
@[simp] theorem logInvalid_fontBase (w : Word) : (s.logInvalid w).fontBase = s.fontBase := rfl
@[simp] theorem logInvalid_feed (w : Word) : (s.logInvalid w).feed = s.feed := rfl
@[simp] theorem logInvalid_draws (w : Word) : (s.logInvalid w).draws = s.draws := rfl

@[simp] theorem push_V (h : s.sp.val < Config.stackCapacity) : (s.push h).V = s.V := rfl
@[simp] theorem push_I (h : s.sp.val < Config.stackCapacity) : (s.push h).I = s.I := rfl
@[simp] theorem push_pc (h : s.sp.val < Config.stackCapacity) : (s.push h).pc = s.pc := rfl
@[simp] theorem push_sp (h : s.sp.val < Config.stackCapacity) : (s.push h).sp = ⟨s.sp.val + 1, Nat.succ_lt_succ h⟩ := rfl
@[simp] theorem push_stack (h : s.sp.val < Config.stackCapacity) : (s.push h).stack = s.stack.set s.sp.val s.pc h := rfl
@[simp] theorem push_DT (h : s.sp.val < Config.stackCapacity) : (s.push h).DT = s.DT := rfl
@[simp] theorem push_ST (h : s.sp.val < Config.stackCapacity) : (s.push h).ST = s.ST := rfl
@[simp] theorem push_mem (h : s.sp.val < Config.stackCapacity) : (s.push h).mem = s.mem := rfl
@[simp] theorem push_fb (h : s.sp.val < Config.stackCapacity) : (s.push h).fb = s.fb := rfl
@[simp] theorem push_halted (h : s.sp.val < Config.stackCapacity) : (s.push h).halted = s.halted := rfl
@[simp] theorem push_lastFault (h : s.sp.val < Config.stackCapacity) : (s.push h).lastFault = s.lastFault := rfl
@[simp] theorem push_accCpu (h : s.sp.val < Config.stackCapacity) : (s.push h).accCpu = s.accCpu := rfl
@[simp] theorem push_timerPhase (h : s.sp.val < Config.stackCapacity) : (s.push h).timerPhase = s.timerPhase := rfl
@[simp] theorem push_clockFrequency (h : s.sp.val < Config.stackCapacity) : (s.push h).clockFrequency = s.clockFrequency := rfl
@[simp] theorem push_debugMode (h : s.sp.val < Config.stackCapacity) : (s.push h).debugMode = s.debugMode := rfl
@[simp] theorem push_fontBase (h : s.sp.val < Config.stackCapacity) : (s.push h).fontBase = s.fontBase := rfl
@[simp] theorem push_feed (h : s.sp.val < Config.stackCapacity) : (s.push h).feed = s.feed := rfl
@[simp] theorem push_draws (h : s.sp.val < Config.stackCapacity) : (s.push h).draws = s.draws := rfl

@[simp] theorem popPc_V : (s.popPc).V = s.V := rfl
@[simp] theorem popPc_I : (s.popPc).I = s.I := rfl
@[simp] theorem popPc_pc : (s.popPc).pc = s.stack[s.sp.val - 1]'(by have := s.sp.isLt; omega) := rfl
@[simp] theorem popPc_sp : (s.popPc).sp = ⟨s.sp.val - 1, Nat.lt_of_le_of_lt (Nat.sub_le _ _) s.sp.isLt⟩ := rfl
@[simp] theorem popPc_stack : (s.popPc).stack = s.stack := rfl
@[simp] theorem popPc_DT : (s.popPc).DT = s.DT := rfl
@[simp] theorem popPc_ST : (s.popPc).ST = s.ST := rfl
@[simp] theorem popPc_mem : (s.popPc).mem = s.mem := rfl
@[simp] theorem popPc_fb : (s.popPc).fb = s.fb := rfl
@[simp] theorem popPc_halted : (s.popPc).halted = s.halted := rfl
@[simp] theorem popPc_lastFault : (s.popPc).lastFault = s.lastFault := rfl
@[simp] theorem popPc_accCpu : (s.popPc).accCpu = s.accCpu := rfl
@[simp] theorem popPc_timerPhase : (s.popPc).timerPhase = s.timerPhase := rfl
@[simp] theorem popPc_clockFrequency : (s.popPc).clockFrequency = s.clockFrequency := rfl
@[simp] theorem popPc_debugMode : (s.popPc).debugMode = s.debugMode := rfl
@[simp] theorem popPc_fontBase : (s.popPc).fontBase = s.fontBase := rfl
@[simp] theorem popPc_feed : (s.popPc).feed = s.feed := rfl
@[simp] theorem popPc_draws : (s.popPc).draws = s.draws := rfl

@[simp] theorem timerTick_V : (s.timerTick).V = s.V := rfl
@[simp] theorem timerTick_I : (s.timerTick).I = s.I := rfl
@[simp] theorem timerTick_pc : (s.timerTick).pc = s.pc := rfl
@[simp] theorem timerTick_sp : (s.timerTick).sp = s.sp := rfl
@[simp] theorem timerTick_stack : (s.timerTick).stack = s.stack := rfl
@[simp] theorem timerTick_DT : (s.timerTick).DT = decrement s.DT := rfl
@[simp] theorem timerTick_ST : (s.timerTick).ST = decrement s.ST := rfl
@[simp] theorem timerTick_mem : (s.timerTick).mem = s.mem := rfl
@[simp] theorem timerTick_fb : (s.timerTick).fb = s.fb := rfl
@[simp] theorem timerTick_halted : (s.timerTick).halted = s.halted := rfl
@[simp] theorem timerTick_lastFault : (s.timerTick).lastFault = s.lastFault := rfl
@[simp] theorem timerTick_accCpu : (s.timerTick).accCpu = s.accCpu := rfl
@[simp] theorem timerTick_timerPhase : (s.timerTick).timerPhase = s.timerPhase := rfl
@[simp] theorem timerTick_clockFrequency : (s.timerTick).clockFrequency = s.clockFrequency := rfl
@[simp] theorem timerTick_debugMode : (s.timerTick).debugMode = s.debugMode := rfl
@[simp] theorem timerTick_fontBase : (s.timerTick).fontBase = s.fontBase := rfl
@[simp] theorem timerTick_feed : (s.timerTick).feed = s.feed := rfl
@[simp] theorem timerTick_draws : (s.timerTick).draws = s.draws := rfl

end Sys2Proof.Machine.State
end

