-- ==== Sys2Proof/Laws/Ops.lean ====
section
/-! SUPPORT. What each shared operation over registers, screen, checks and faults can do, said once. -/

namespace Sys2Proof.Machine

/-- Register x is element x of V (R20). -/
theorem reg_eq (s : State) (x : Reg) : s.reg x = s.V[x] := rfl

/-- The registers after one is written, as elements of V. -/
theorem V_setReg (s : State) (x r : Reg) (b : Byte) : (s.setReg x b).V[r] = if r = x then b else s.V[r] := by
  by_cases h : r = x
  · subst h; simp
  · have : x.val ≠ r.val := fun e => h (Fin.ext e.symm)
    simp [h, this]

/-- Reading a register after writing one. -/
@[simp] theorem reg_setReg (s : State) (x r : Reg) (b : Byte) : (s.setReg x b).reg r = if r = x then b else s.reg r :=
  V_setReg s x r b

/-- The registers after a result and its flag: VF holds the flag, also when it is the destination (R144). -/
theorem reg_setFlagged (s : State) (x r : Reg) (b : Byte) (c : Bool) :
    (s.setFlagged x b c).reg r = if r = VF then flagByte c else if r = x then b else s.reg r := by
  simp [State.setFlagged]

/-- The same, as elements of V. -/
theorem V_setFlagged (s : State) (x r : Reg) (b : Byte) (c : Bool) :
    (s.setFlagged x b c).V[r] = if r = VF then flagByte c else if r = x then b else s.V[r] :=
  reg_setFlagged s x r b c

/-- A flag in VF is 0 or 1 (R21). -/
theorem flagByte_zero_or_one (b : Bool) : flagByte b = 0 ∨ flagByte b = 1 := by
  cases b <;> simp [flagByte]

/-- A checked access goes through, or raises OutOfBoundsAccess; it always answers a next state. -/
theorem guardAddress_cases (i : Instr) (last : Nat) (s t : State) :
    (last ≤ Config.memTop ∧ guardAddress i last s t = .next t) ∨
    (Config.memTop < last ∧ guardAddress i last s t = .next (s.raise .outOfBoundsAccess (encode i))) := by
  unfold guardAddress
  split
  · exact .inl ⟨‹_›, rfl⟩
  · exact .inr ⟨by omega, rfl⟩

/-- A key instruction tests a key of the sample, or raises OutOfBoundsAccess; it always answers a next state. -/
theorem guardKey_cases (i : Instr) (x : Reg) (s : State) (f : Bool → State) :
    (∃ h : (s.reg x).toNat < Config.numKeys, guardKey i x s f = .next (f (s.sample.key[(s.reg x).toNat]'h))) ∨
    (Config.numKeys ≤ (s.reg x).toNat ∧ guardKey i x s f = .next (s.raise .outOfBoundsAccess (encode i))) := by
  unfold guardKey
  split
  · exact .inl ⟨‹_›, rfl⟩
  · exact .inr ⟨by omega, rfl⟩

/-- A checked access whose addresses exist goes through. -/
theorem guardAddress_of_le (i : Instr) {last : Nat} (s t : State) (h : last ≤ 4095) :
    guardAddress i last s t = .next t := if_pos h

/-- A checked access with an address above 4095 faults. -/
theorem guardAddress_of_gt (i : Instr) {last : Nat} (s t : State) (h : 4095 < last) :
    guardAddress i last s t = .next (s.raise .outOfBoundsAccess (encode i)) := if_neg (Nat.not_le.mpr h)

/-- A key instruction whose key number is in range tests that key. -/
theorem guardKey_of_lt (i : Instr) (x : Reg) (s : State) (f : Bool → State) (h : s.V[x].toNat < 16) :
    guardKey i x s f = .next (f s.sample.key[s.V[x].toNat]) := dif_pos h

/-- A key instruction whose key number is above 15 faults. -/
theorem guardKey_of_ge (i : Instr) (x : Reg) (s : State) (f : Bool → State) (h : s.V[x].toNat ≥ 16) :
    guardKey i x s f = .next (s.raise .outOfBoundsAccess (encode i)) := dif_neg (Nat.not_lt.mpr h)

/-- An invalid word is logged under DEBUG_MODE and faults otherwise (R224, R216). -/
theorem invalidOpcode_cases (s : State) (w : Word) :
    (s.debugMode = true ∧ s.invalidOpcode w = s.logInvalid w) ∨
    (s.debugMode = false ∧ s.invalidOpcode w = s.raise .invalidOpcode w) := by
  cases h : s.debugMode <;> simp [State.invalidOpcode, h]

/-- The sample a cycle sees is the next one lined up. -/
theorem sample_of_feed {s : State} {x : Sample} {rest : List Sample} (h : s.feed = x :: rest) : s.sample = x := by
  simp [State.sample, h]

/-- A pixel after a pixel is set; nothing outside the grid is ever set (R29). -/
theorem pixel_setPixel (f : Framebuffer) (x y px py : Nat) (b : Bool) :
    (f.setPixel x y b).pixel px py = if px = x ∧ py = y ∧ x < 64 ∧ y < 32 then b else f.pixel px py := by
  unfold Framebuffer.setPixel Framebuffer.pixel
  by_cases h : x < 64 ∧ y < 32 <;> by_cases hp : px < 64 ∧ py < 32
  · simp only [h, hp, dif_pos, and_self, and_true]
    by_cases hy : py = y
    · subst hy
      by_cases hx : px = x
      · subst hx; simp
      · simp [hx, Ne.symm hx]
    · simp [hy, Ne.symm hy]
  · have : ¬ (px = x ∧ py = y ∧ x < 64 ∧ y < 32) := fun e => hp ⟨e.1 ▸ h.1, e.2.1 ▸ h.2⟩
    rw [if_neg this]; simp [hp]
  · simp [h]
  · simp [h]

/-- A cleared screen has no set pixel. -/
@[simp] theorem pixel_clear (x y : Nat) : Framebuffer.clear.pixel x y = false := by
  simp [Framebuffer.pixel, Framebuffer.clear]

/-- Two screens with the same 2048 pixels are the same screen. -/
theorem framebuffer_ext {f g : Framebuffer} (h : ∀ x y, x < 64 → y < 32 → f.pixel x y = g.pixel x y) : f = g := by
  ext y hy x hx
  simpa [Framebuffer.pixel, hx, hy] using h x y hx hy

end Sys2Proof.Machine
end

