-- ==== Sys2Proof/Laws/Display.lean ====
section
/-! SUPPORT. What the sprite renderer does to one pixel and to the collision, said once for a pixel and for a row. -/

namespace Sys2Proof.Machine

/-- One touched pixel: it becomes old xor bit if it lies on the grid, and every other pixel is as it was (R167, R169). -/
theorem blitPixel_pixel (bit : Bool) (x y px py : Nat) (p : Framebuffer × Bool) :
    (blitPixel bit x y p).1.pixel px py =
      if px = x ∧ py = y ∧ x < 64 ∧ y < 32 then (p.1.pixel x y ^^ bit) else p.1.pixel px py := by
  unfold blitPixel
  by_cases h : x < 64 ∧ y < 32
  · simp [h, pixel_setPixel]
  · simp [h]

/-- The collision after one touched pixel: as it was, or a set pixel under a set bit on the grid (R168). -/
theorem blitPixel_collision (bit : Bool) (x y : Nat) (p : Framebuffer × Bool) :
    (blitPixel bit x y p).2 = (p.2 || (decide (x < 64 ∧ y < 32) && (p.1.pixel x y && bit))) := by
  unfold blitPixel
  by_cases h : x < 64 ∧ y < 32 <;> simp [h]

/-- The first `n` columns of a row: a pixel of that row under one of them is xored with its bit (R167, R170). -/
theorem blitColumns_pixel (row : Byte) (x0 y n px py : Nat) (p : Framebuffer × Bool) :
    (blitColumns row x0 y n p).1.pixel px py =
      if py = y ∧ x0 ≤ px ∧ px < x0 + n ∧ px < 64 ∧ y < 32 then (p.1.pixel px py ^^ row.getLsbD (7 - (px - x0)))
      else p.1.pixel px py := by
  induction n with
  | zero => rw [blitColumns, if_neg (by omega)]
  | succ n ih =>
    rw [blitColumns, blitPixel_pixel]
    by_cases h : px = x0 + n ∧ py = y ∧ x0 + n < 64 ∧ y < 32
    · obtain ⟨rfl, rfl, h1, h2⟩ := h
      rw [ih, if_pos (by omega), if_neg (by omega), if_pos (by omega)]
      simp
    · rw [if_neg h, ih]
      by_cases h' : py = y ∧ x0 ≤ px ∧ px < x0 + n ∧ px < 64 ∧ y < 32
      · rw [if_pos h', if_pos (by omega)]
      · rw [if_neg h', if_neg (by omega)]

end Sys2Proof.Machine
end

