-- ==== Sys2Proof/Laws/Memory.lean ====
section
/-! SUPPORT. The laws of main memory: a read gives the last write, and every write keeps the canonical form. -/

namespace Sys2Proof.Machine.Memory

@[simp] theorem read_nil (a : Nat) : read [] a = unlisted := rfl

theorem read_cons (k : Nat) (b : Byte) (m : Memory) (a : Nat) :
    read ((k, b) :: m) a = if k = a then b else read m a := rfl

/-- Erasing an address makes it read as unlisted, and no other. -/
theorem read_erase (m : Memory) (a b : Nat) : read (m.erase a) b = if b = a then unlisted else read m b := by
  induction m with
  | nil => simp [erase]
  | cons c m ih =>
    obtain ⟨k, v⟩ := c
    by_cases hk : k = a
    · subst hk
      rw [erase, if_pos rfl, ih]
      by_cases hb : b = k
      · simp [hb]
      · simp [hb, read_cons, Ne.symm hb]
    · by_cases hb : k = b
      · subst hb; simp [erase, hk, read_cons]
      · simp [erase, hk, read_cons, hb, ih]

/-- An entry put in reads back, where no other entry has its address. -/
theorem read_insert (m : Memory) (a b : Nat) (v : Byte) (h : ∀ c ∈ m, c.1 ≠ a) :
    read (m.insert a v) b = if b = a then v else read m b := by
  induction m with
  | nil => simp [insert, read_cons, eq_comm]
  | cons c m ih =>
    obtain ⟨k, w⟩ := c
    have hk : k ≠ a := h (k, w) (by simp)
    have ih := ih fun c hc => h c (by simp [hc])
    by_cases hlt : a < k
    · simp only [insert, hlt, if_true, read_cons]
      by_cases hb : b = a
      · simp [hb]
      · simp [hb, Ne.symm hb]
    · by_cases hb : k = b
      · subst hb; simp [insert, hlt, read_cons, hk]
      · simp [insert, hlt, read_cons, hb, ih]

theorem erase_ne (m : Memory) (a : Nat) : ∀ c ∈ m.erase a, c.1 ≠ a := by
  induction m with
  | nil => simp [erase]
  | cons c m ih =>
    obtain ⟨k, v⟩ := c
    by_cases hk : k = a
    · simpa [erase, hk] using ih
    · intro c hc
      simp only [erase, hk, if_false, List.mem_cons] at hc
      rcases hc with rfl | hc
      · exact hk
      · exact ih c hc

/-- A read after a write of one byte (spec/20_memory.md R60). -/
@[simp] theorem read_write (m : Memory) (a b : Nat) (v : Byte) :
    read (m.write a v) b = if b = a then v else read m b := by
  unfold write
  by_cases hv : v = unlisted
  · simp [hv, read_erase]
  · rw [if_neg hv, read_insert _ _ _ _ (erase_ne m a), read_erase]
    split <;> simp_all

/-- The canonical form from an address holds from a lower one. -/
theorem wfFrom_mono {lo lo' : Nat} {m : Memory} (h : wfFrom lo m = true) (hle : lo' ≤ lo) : wfFrom lo' m = true := by
  cases m with
  | nil => rfl
  | cons c m =>
    obtain ⟨k, v⟩ := c
    simp only [wfFrom, Bool.and_eq_true, decide_eq_true_eq] at h ⊢
    exact ⟨⟨⟨by omega, h.1.1.2⟩, h.1.2⟩, h.2⟩

theorem wfFrom_erase {lo : Nat} {m : Memory} (a : Nat) (h : wfFrom lo m = true) : wfFrom lo (m.erase a) = true := by
  induction m generalizing lo with
  | nil => rfl
  | cons c m ih =>
    obtain ⟨k, v⟩ := c
    simp only [wfFrom, Bool.and_eq_true, decide_eq_true_eq] at h
    by_cases hk : k = a
    · simpa [erase, hk] using wfFrom_mono (ih h.2) (by omega)
    · simp only [erase, hk, if_false, wfFrom, Bool.and_eq_true, decide_eq_true_eq]
      exact ⟨h.1, ih h.2⟩

theorem wfFrom_insert {lo : Nat} {m : Memory} {a : Nat} {v : Byte} (h : wfFrom lo m = true) (hne : ∀ c ∈ m, c.1 ≠ a)
    (hlo : lo ≤ a) (ha : a < Config.memSize) (hv : v ≠ unlisted) : wfFrom lo (m.insert a v) = true := by
  induction m generalizing lo with
  | nil => simp [insert, wfFrom, hlo, ha, hv]
  | cons c m ih =>
    obtain ⟨k, w⟩ := c
    have hk : k ≠ a := hne (k, w) (by simp)
    simp only [wfFrom, Bool.and_eq_true, decide_eq_true_eq] at h
    by_cases hlt : a < k
    · simp only [insert, hlt, if_true, wfFrom, Bool.and_eq_true, decide_eq_true_eq]
      exact ⟨⟨⟨hlo, ha⟩, hv⟩, ⟨⟨by omega, h.1.1.2⟩, h.1.2⟩, h.2⟩
    · simp only [insert, hlt, if_false, wfFrom, Bool.and_eq_true, decide_eq_true_eq]
      exact ⟨h.1, ih h.2 (fun c hc => hne c (by simp [hc])) (by omega)⟩

/-- A write inside the address space keeps the canonical form. -/
theorem wf_write {m : Memory} {a : Nat} (v : Byte) (h : m.wf = true) (ha : a < Config.memSize) :
    (m.write a v).wf = true := by
  unfold write wf at *
  split
  · exact wfFrom_erase a h
  · rename_i hv
    exact wfFrom_insert (wfFrom_erase a h) (erase_ne m a) (Nat.zero_le a) ha hv

/-- So does a run of bytes that ends inside it. -/
theorem wf_writeAll {m : Memory} {a : Nat} {vs : List Byte} (h : m.wf = true) (ha : a + vs.length ≤ Config.memSize) :
    (m.writeAll a vs).wf = true := by
  induction vs generalizing m a with
  | nil => exact h
  | cons v vs ih =>
    simp only [List.length_cons] at ha
    exact ih (wf_write v h (by omega)) (by omega)

@[simp] theorem wf_nil : wf [] = true := rfl

/-- A run of bytes leaves every address below it alone. -/
theorem read_writeAll_below (m : Memory) (a b : Nat) (vs : List Byte) (h : b < a) :
    read (m.writeAll a vs) b = read m b := by
  induction vs generalizing m a with
  | nil => rfl
  | cons v vs ih => rw [writeAll, ih _ _ (by omega), read_write, if_neg (by omega)]

end Sys2Proof.Machine.Memory
end

