-- ==== Sys2Proof/Laws/Operands.lean ====
section
/-! SUPPORT. What each operand form computes, as numbers and by element. -/

namespace Sys2Proof.Machine

/-- The effective address is an exact sum (spec/20_memory.md R70). -/
theorem ea_eq (s : State) (k : Nat) : s.ea k = s.I.toNat + k := rfl

/-- A 12-bit NNN as an address (spec/30_encoding.md R79). -/
theorem immAddress_toNat {nnn : Nat} (h : nnn < 4096) : (immAddress nnn).toNat = nnn := by
  rw [immAddress, BitVec.toNat_ofNat]; omega

/-- V0 + NNN does not wrap (spec/41_control.md R122). -/
theorem jumpV0Target_toNat (s : State) {nnn : Nat} (h : nnn < 4096) :
    (s.jumpV0Target nnn).toNat = (s.reg 0).toNat + nnn := by
  have := (s.reg 0).isLt
  rw [State.jumpV0Target, BitVec.toNat_ofNat]; omega

/-- A glyph address does not wrap (spec/43_index_memory.md R152). -/
theorem glyphAddress_toNat (s : State) (x : Reg) :
    (s.glyphAddress x).toNat = s.fontBase.val + (s.reg x).toNat * 5 := by
  have := (s.reg x).isLt
  have := s.fontBase.isLt
  show (BitVec.ofNat 16 (s.fontBase.val + (s.reg x).toNat * 5)).toNat = _
  rw [BitVec.toNat_ofNat]; omega

/-- I + Vx wraps at 65536 (R151). -/
theorem indexPlus_toNat (s : State) (x : Reg) : (s.indexPlus x).toNat = (s.I.toNat + (s.reg x).toNat) % 65536 := by
  have := (s.reg x).isLt
  rw [State.indexPlus, BitVec.toNat_add, BitVec.toNat_setWidth]; omega

/-- Three digits (R153). -/
@[simp] theorem digits_length (b : Byte) : (digits b).length = 3 := rfl

/-- V0..Vx are x + 1 bytes (R154). -/
@[simp] theorem regsUpTo_length (s : State) (x : Reg) : (s.regsUpTo x).length = x.val + 1 := by
  have := x.isLt
  simp [State.regsUpTo]

/-- Their k-th byte is register k (R154). -/
theorem regsUpTo_getElem (s : State) (x : Reg) (k : Nat) (h : k < (s.regsUpTo x).length) :
    (s.regsUpTo x)[k] = s.V[k]'(by rw [regsUpTo_length] at h; have := x.isLt; omega) := by
  simp [State.regsUpTo]

/-- The registers after a load: V0..Vx from memory, the others as they were (R155). -/
theorem loadedRegs_getElem (s : State) (x r : Reg) :
    (s.loadedRegs x)[r] = if r ≤ x then s.mem.read (s.ea r.val) else s.V[r] := by
  simp [State.loadedRegs]

end Sys2Proof.Machine
end

