-- ==== Sys2Proof/Laws/PerInstr.lean ====
section
/-! SUPPORT. A family of lemmas, one per constructor of Instr: the word an instruction encodes to matches the row of the
opcode map that is its own (spec/30_encoding.md R80). -/

namespace Sys2Proof.Laws

/-- The mask F000 keeps the leading nibble. -/
theorem and_leading_nibble (w : Word) (op : Nat) (h : w.toNat / 4096 = op) :
    w &&& 0xF000#16 = BitVec.ofNat 16 (op * 4096) := by
  have hw : w &&& 0xF000#16 = (w >>> 12) <<< 12 := by
    ext i hi
    simp only [BitVec.getElem_and, BitVec.getElem_shiftLeft, BitVec.getElem_ushiftRight]
    interval_cases i <;> simp [BitVec.getLsbD_eq_getElem]
  rw [hw]
  apply BitVec.eq_of_toNat_eq
  have := w.isLt
  simp only [BitVec.toNat_shiftLeft, BitVec.toNat_ushiftRight, BitVec.toNat_ofNat, Nat.shiftLeft_eq,
    Nat.shiftRight_eq_div_pow]
  omega

/-- A word built from an opcode and 12 bits below it matches a row whose mask is F000. -/
theorem matches_leading (op low k : Nat) (pattern : Word) (hop : op < 16) (hlow : low < 4096)
    (hk : opcodeMap[k]? = some (0xF000#16, pattern)) (hp : pattern = BitVec.ofNat 16 (op * 4096)) :
    matchesRow (BitVec.ofNat 16 (op * 4096 + low)) k = true := by
  have hw := and_leading_nibble (BitVec.ofNat 16 (op * 4096 + low)) op (by
    rw [BitVec.toNat_ofNat]; omega)
  simp only [matchesRow, hk, hw, hp, beq_self_eq_true]

namespace EncodesItsRow

/-- What the family says of an instruction, as a term: its word matches its row. -/
def Statement (i : Instr) : Prop := WellFormed i = true → matchesRow (encode i) (rowIndex i) = true

theorem cls : Statement .cls := fun _ => by decide

theorem ret : Statement .ret := fun _ => by decide

theorem jp (nnn : Nat) : Statement (.jp nnn) := fun h =>
  matches_leading 0x1 nnn _ _ (by decide) (by simpa [WellFormed, addressFits] using h) rfl rfl

theorem call (nnn : Nat) : Statement (.call nnn) := fun h =>
  matches_leading 0x2 nnn _ _ (by decide) (by simpa [WellFormed, addressFits] using h) rfl rfl

theorem seImm (x : Reg) (nn : Byte) : Statement (.seImm x nn) := fun _ => by
  have := x.isLt
  have := nn.isLt
  simpa [encode, encodeI, rowIndex, Nat.add_assoc] using
    matches_leading 0x3 (x.val * 256 + nn.toNat) 4 _ (by decide) (by omega) rfl rfl

theorem sneImm (x : Reg) (nn : Byte) : Statement (.sneImm x nn) := fun _ => by
  have := x.isLt
  have := nn.isLt
  simpa [encode, encodeI, rowIndex, Nat.add_assoc] using
    matches_leading 0x4 (x.val * 256 + nn.toNat) 5 _ (by decide) (by omega) rfl rfl

theorem seReg (x y : Reg) : Statement (.seReg x y) := fun _ => by
  revert x y; decide

theorem sneReg (x y : Reg) : Statement (.sneReg x y) := fun _ => by
  revert x y; decide

theorem ldImm (x : Reg) (nn : Byte) : Statement (.ldImm x nn) := fun _ => by
  have := x.isLt
  have := nn.isLt
  simpa [encode, encodeI, rowIndex, Nat.add_assoc] using
    matches_leading 0x6 (x.val * 256 + nn.toNat) 8 _ (by decide) (by omega) rfl rfl

theorem addImm (x : Reg) (nn : Byte) : Statement (.addImm x nn) := fun _ => by
  have := x.isLt
  have := nn.isLt
  simpa [encode, encodeI, rowIndex, Nat.add_assoc] using
    matches_leading 0x7 (x.val * 256 + nn.toNat) 9 _ (by decide) (by omega) rfl rfl

theorem ldReg (x y : Reg) : Statement (.ldReg x y) := fun _ => by
  revert x y; decide

theorem orReg (x y : Reg) : Statement (.orReg x y) := fun _ => by
  revert x y; decide

theorem andReg (x y : Reg) : Statement (.andReg x y) := fun _ => by
  revert x y; decide

theorem xorReg (x y : Reg) : Statement (.xorReg x y) := fun _ => by
  revert x y; decide

theorem addReg (x y : Reg) : Statement (.addReg x y) := fun _ => by
  revert x y; decide

theorem subReg (x y : Reg) : Statement (.subReg x y) := fun _ => by
  revert x y; decide

theorem shr (x y : Reg) : Statement (.shr x y) := fun _ => by
  revert x y; decide

theorem subn (x y : Reg) : Statement (.subn x y) := fun _ => by
  revert x y; decide

theorem shl (x y : Reg) : Statement (.shl x y) := fun _ => by
  revert x y; decide

theorem ldI (nnn : Nat) : Statement (.ldI nnn) := fun h =>
  matches_leading 0xA nnn _ _ (by decide) (by simpa [WellFormed, addressFits] using h) rfl rfl

theorem jpV0 (nnn : Nat) : Statement (.jpV0 nnn) := fun h =>
  matches_leading 0xB nnn _ _ (by decide) (by simpa [WellFormed, addressFits] using h) rfl rfl

theorem rnd (x : Reg) (nn : Byte) : Statement (.rnd x nn) := fun _ => by
  have := x.isLt
  have := nn.isLt
  simpa [encode, encodeI, rowIndex, Nat.add_assoc] using
    matches_leading 0xC (x.val * 256 + nn.toNat) 21 _ (by decide) (by omega) rfl rfl

theorem drw (x y : Reg) (n : Nat) : Statement (.drw x y n) := fun h => by
  have hn : n < 16 := by simpa [WellFormed, heightFits] using h
  have := x.isLt
  have := y.isLt
  simpa [encode, encodeR, rowIndex, Nat.add_assoc] using
    matches_leading 0xD (x.val * 256 + (y.val * 16 + n)) 22 _ (by decide) (by omega) rfl rfl

theorem skp (x : Reg) : Statement (.skp x) := fun _ => by
  revert x; decide

theorem sknp (x : Reg) : Statement (.sknp x) := fun _ => by
  revert x; decide

theorem waitk (x : Reg) : Statement (.waitk x) := fun _ => by
  revert x; decide

theorem ldVxDT (x : Reg) : Statement (.ldVxDT x) := fun _ => by
  revert x; decide

theorem ldDT (x : Reg) : Statement (.ldDT x) := fun _ => by
  revert x; decide

theorem ldST (x : Reg) : Statement (.ldST x) := fun _ => by
  revert x; decide

theorem addI (x : Reg) : Statement (.addI x) := fun _ => by
  revert x; decide

theorem ldF (x : Reg) : Statement (.ldF x) := fun _ => by
  revert x; decide

theorem ldB (x : Reg) : Statement (.ldB x) := fun _ => by
  revert x; decide

theorem storeRegs (x : Reg) : Statement (.storeRegs x) := fun _ => by
  revert x; decide

theorem loadRegs (x : Reg) : Statement (.loadRegs x) := fun _ => by
  revert x; decide

end EncodesItsRow

end Sys2Proof.Laws
end

