-- ==== Sys2Proof/Laws/Scheduler.lean ====
section
/-! SUPPORT. What the scheduler's part of a step can change: the two timers and the timer phase, then the inputs. -/

namespace Sys2Proof.Machine

/-- One decrement takes 1 off a timer that is not 0 (R201). -/
theorem decrement_toNat (b : Byte) : (decrement b).toNat = b.toNat - 1 := by
  unfold decrement
  split
  · simp_all
  · rename_i h
    have : 1 ≤ b.toNat := by
      rcases Nat.eq_zero_or_pos b.toNat with h0 | h0
      · exact absurd (BitVec.eq_of_toNat_eq h0) h
      · exact h0
    rw [BitVec.toNat_sub_of_le (by simpa [BitVec.le_def] using this)]
    simp

/-- The tick loop changes the timers and the phase, and nothing else. -/
theorem tickLoop_only (n : Nat) (s : State) :
    ∃ dt st phase, s.tickLoop n = { s with DT := dt, ST := st, timerPhase := phase } := by
  induction n generalizing s with
  | zero => exact ⟨_, _, _, rfl⟩
  | succ n ih =>
    unfold State.tickLoop
    split
    · exact ih _
    · exact ⟨_, _, _, rfl⟩

/-- The accrual of one cycle changes the timers and the phase, and nothing else (R198, R201). -/
theorem accrue_only (s : State) : ∃ dt st phase, s.accrue = { s with DT := dt, ST := st, timerPhase := phase } :=
  tickLoop_only _ _

/-- With fuel for every due tick the loop stops below one timer period (R200). -/
theorem tickLoop_phase_lt (n : Nat) (s : State) (hp : 0 < s.phasePeriod) (hn : s.timerPhase / s.phasePeriod ≤ n) :
    (s.tickLoop n).timerPhase < s.phasePeriod := by
  induction n generalizing s with
  | zero =>
    have h0 := Nat.le_zero.mp hn
    exact (Nat.div_eq_zero_iff_lt hp).mp h0
  | succ n ih =>
    unfold State.tickLoop
    split
    · rename_i hle
      refine ih _ hp ?_
      have := Nat.div_eq_sub_div hp hle
      show (s.timerPhase - s.phasePeriod) / s.phasePeriod ≤ n
      omega
    · omega

end Sys2Proof.Machine
end

