-- ==== Sys2Proof/Laws/Step.lean ====
section
/-! SUPPORT. Everything a step, and one turn of a Frame's loop, can do, said once. -/

namespace Sys2Proof.Machine

/-- A step that answers a next state ran one cycle of a block that was not halted: a fetch fault, an invalid word, or the
decoded instruction on the state with pc advanced; the scheduler's part follows. -/
theorem step_cases {s t : State} (h : step s = .next t) :
    s.halted = false ∧
    ((s.fetchWord = none ∧ t = s.raiseFetch.afterCycle) ∨
      ∃ w, s.fetchWord = some w ∧
        ((∃ r, decodeWord w = .error r ∧ t = (s.advancePc.invalidOpcode w).afterCycle) ∨
          ∃ i u, decodeWord w = .ok i ∧ exec i s.advancePc = .next u ∧ t = u.afterCycle)) := by
  unfold step State.cycle at h
  cases hh : s.halted with
  | true => simp [hh] at h
  | false =>
    refine ⟨rfl, ?_⟩
    simp only [hh] at h
    cases hf : s.fetchWord with
    | none => exact .inl ⟨rfl, by simpa [hf, finishCycle] using h.symm⟩
    | some w =>
      refine .inr ⟨w, rfl, ?_⟩
      cases hd : decodeWord w with
      | error r => exact .inl ⟨r, rfl, by simpa [hf, hd, finishCycle] using h.symm⟩
      | ok i =>
        cases he : exec i s.advancePc with
        | next u => exact .inr ⟨i, u, rfl, he, by simpa [hf, hd, he, finishCycle] using h.symm⟩
        | fault f => simp [hf, hd, he, finishCycle] at h
        | refused r => simp [hf, hd, he, finishCycle] at h

/-- A halted block accrues nothing: only its inputs move on (R204). -/
theorem afterCycle_of_halted {s : State} (h : s.halted = true) : s.afterCycle = s.nextSample := by
  simp [State.afterCycle, h]

/-- A cycle that did not halt the block is followed by its accrual (R198). -/
theorem afterCycle_of_running {s : State} (h : s.halted = false) : s.afterCycle = s.accrue.nextSample := by
  simp [State.afterCycle, h]

/-- What follows a cycle changes the timers, the phase and the inputs, and nothing else. -/
theorem afterCycle_only (s : State) :
    ∃ dt st phase, s.afterCycle =
      { s with DT := dt, ST := st, timerPhase := phase, feed := s.feed.tail, draws := s.draws + 1 } := by
  cases h : s.halted with
  | true => exact ⟨s.DT, s.ST, s.timerPhase, by rw [afterCycle_of_halted h, ← h]; rfl⟩
  | false =>
    obtain ⟨dt, st, phase, ha⟩ := accrue_only s
    exact ⟨dt, st, phase, by rw [afterCycle_of_running h, ha, ← h]; rfl⟩

/-- One turn of a Frame's loop: no time left, or one step on one instruction period less (R198). -/
theorem frameLoop_succ (n : Nat) (s : State) :
    (s.accCpu < s.instructionPeriod ∧ frameLoop (n + 1) s = .next s) ∨
    (s.instructionPeriod ≤ s.accCpu ∧
      ((∃ t, step { s with accCpu := s.accCpu - s.instructionPeriod } = .next t ∧
          frameLoop (n + 1) s = if t.halted then .next t else frameLoop n t) ∨
        (∃ f, step { s with accCpu := s.accCpu - s.instructionPeriod } = .fault f ∧ frameLoop (n + 1) s = .fault f) ∨
        (∃ r, step { s with accCpu := s.accCpu - s.instructionPeriod } = .refused r ∧
          frameLoop (n + 1) s = .refused r))) := by
  rw [frameLoop]
  by_cases hle : s.instructionPeriod ≤ s.accCpu
  · refine .inr ⟨hle, ?_⟩
    rw [if_pos hle]
    cases h : step { s with accCpu := s.accCpu - s.instructionPeriod } with
    | next t => exact .inl ⟨t, rfl, rfl⟩
    | fault f => exact .inr (.inl ⟨f, rfl, rfl⟩)
    | refused r => exact .inr (.inr ⟨r, rfl, rfl⟩)
  · exact .inl ⟨not_le.mp hle, if_neg hle⟩

end Sys2Proof.Machine
end

