-- ==== Sys2Proof/Tests/Slice0.lean ====
section
/-! SUPPORT. Small tests. Expected results are the spec's own vectors (spec/95_test_vectors.md, the section named at each
group) or its encodings (spec/30_encoding.md R77, R80); then one witness for each statement that has hypotheses. -/

namespace Sys2Proof.Tests

open Sys2Proof.Machine Sys2Proof.Claims

/-! ## Well-formedness: one ill-formed term for each check (R77) -/

theorem test_jp_address_too_wide : WellFormed (.jp 4096) = false := by decide
theorem test_call_address_too_wide : WellFormed (.call 4096) = false := by decide
theorem test_ldI_address_too_wide : WellFormed (.ldI 4096) = false := by decide
theorem test_jpV0_address_too_wide : WellFormed (.jpV0 4096) = false := by decide
theorem test_drw_height_too_wide : WellFormed (.drw 0 0 16) = false := by decide

/-! ## Decoding: every constructor by a word written out from R80 (0b, four nibbles), and words of no row (2.1) -/

theorem test_decode_control :
    decodeWord 0b0000000011100000#16 = .ok .cls ∧
    decodeWord 0b0000000011101110#16 = .ok .ret ∧
    decodeWord 0b0001001000000100#16 = .ok (.jp 0x204) ∧
    decodeWord 0b0010001100000000#16 = .ok (.call 0x300) ∧
    decodeWord 0b1011111100000001#16 = .ok (.jpV0 0xF01) := by decide

theorem test_decode_skips :
    decodeWord 0b0011000111110000#16 = .ok (.seImm 1 0xF0) ∧
    decodeWord 0b0100111000000101#16 = .ok (.sneImm 14 0x05) ∧
    decodeWord 0b0101000100100000#16 = .ok (.seReg 1 2) ∧
    decodeWord 0b1001001000010000#16 = .ok (.sneReg 2 1) := by decide

theorem test_decode_loads_and_logic :
    decodeWord 0b0110000100101010#16 = .ok (.ldImm 1 0x2A) ∧
    decodeWord 0b0111000111111111#16 = .ok (.addImm 1 0xFF) ∧
    decodeWord 0b1000000100100000#16 = .ok (.ldReg 1 2) ∧
    decodeWord 0b1000000100100001#16 = .ok (.orReg 1 2) ∧
    decodeWord 0b1000000100100010#16 = .ok (.andReg 1 2) ∧
    decodeWord 0b1000000100100011#16 = .ok (.xorReg 1 2) := by decide

theorem test_decode_arithmetic :
    decodeWord 0b1000000100100100#16 = .ok (.addReg 1 2) ∧
    decodeWord 0b1000000100100101#16 = .ok (.subReg 1 2) ∧
    decodeWord 0b1000000100100110#16 = .ok (.shr 1 2) ∧
    decodeWord 0b1000000100100111#16 = .ok (.subn 1 2) ∧
    decodeWord 0b1000000100101110#16 = .ok (.shl 1 2) ∧
    decodeWord 0b1100010100001111#16 = .ok (.rnd 5 0x0F) := by decide

theorem test_decode_index_and_memory :
    decodeWord 0b1010001100000000#16 = .ok (.ldI 0x300) ∧
    decodeWord 0b1111001000011110#16 = .ok (.addI 2) ∧
    decodeWord 0b1111000000101001#16 = .ok (.ldF 0) ∧
    decodeWord 0b1111000000110011#16 = .ok (.ldB 0) ∧
    decodeWord 0b1111001001010101#16 = .ok (.storeRegs 2) ∧
    decodeWord 0b1111111101100101#16 = .ok (.loadRegs 15) := by decide

theorem test_decode_display_and_input :
    decodeWord 0b1101000000010101#16 = .ok (.drw 0 1 5) ∧
    decodeWord 0b1110000110011110#16 = .ok (.skp 1) ∧
    decodeWord 0b1110000110100001#16 = .ok (.sknp 1) ∧
    decodeWord 0b1111000100001010#16 = .ok (.waitk 1) ∧
    decodeWord 0b1111000100000111#16 = .ok (.ldVxDT 1) ∧
    decodeWord 0b1111000000010101#16 = .ok (.ldDT 0) ∧
    decodeWord 0b1111001100011000#16 = .ok (.ldST 3) := by decide

theorem test_decode_invalid_words :
    decodeWord 0x0000#16 = .error (.invalidOpcode 0x0000#16) ∧
    decodeWord 0x00E1#16 = .error (.invalidOpcode 0x00E1#16) ∧
    decodeWord 0x0EE0#16 = .error (.invalidOpcode 0x0EE0#16) ∧
    decodeWord 0x5121#16 = .error (.invalidOpcode 0x5121#16) ∧
    decodeWord 0x912F#16 = .error (.invalidOpcode 0x912F#16) ∧
    decodeWord 0x8128#16 = .error (.invalidOpcode 0x8128#16) ∧
    decodeWord 0x812F#16 = .error (.invalidOpcode 0x812F#16) ∧
    decodeWord 0xE19F#16 = .error (.invalidOpcode 0xE19F#16) ∧
    decodeWord 0xF175#16 = .error (.invalidOpcode 0xF175#16) ∧
    decodeWord 0xFFFF#16 = .error (.invalidOpcode 0xFFFF#16) := by decide

theorem test_decode_needs_two_bytes : decode [0x00#8] = .error .truncated := by decide

theorem test_decodeTableWord : decodeTableWord 16 0x812E = some (.shl 1 2) ∧ decodeTableWord 16 0x00E1 = none := by decide

/-! ## One instruction cycle on small states (2.2 to 2.7) -/

/-- A running block at `pc` with some registers set and I. -/
def start (pc : Word) (regs : List (Reg × Byte)) (index : Word := 0) : State :=
  regs.foldl (fun s p => s.setReg p.1 p.2) { State.reset with pc := pc, I := index }

/-- The state after one cycle of the word `w` placed at pc; none where the cycle answers no next state. -/
def ran (w : Nat) (s : State) : Option State :=
  match (s.placeFetchWord w).cycle with
  | .next t => some t
  | .fault _ => none
  | .refused _ => none

/-- What `f` reads in the state after that cycle. -/
def see {α : Type} (f : State → α) (w : Nat) (s : State) : Option α := (ran w s).map f

/-- The status a fault leaves, with pc. -/
def stop (s : State) : Bool × Nat × Word × Word × Word :=
  (s.halted, s.lastFault.code.number.toNat, s.lastFault.addr, s.lastFault.word, s.pc)

/-- A stack with some entries pushed, all of them 0x0206. -/
def stacked (s : State) (n : Fin 129) : State := { s with sp := n, stack := Vector.replicate 128 0x0206 }

/-- Memory as listed. -/
def holding (s : State) (a : Nat) (bs : List Byte) : State := s.setMem (s.mem.writeAll a bs)

/-- The next sample: one key down, and a draw. -/
def sampled (s : State) (k : Fin 16) (r : Byte) : State := { s with feed := [⟨(Vector.replicate 16 false).set k.val true, r⟩] }

/-- One pixel lit. -/
def lit (s : State) (x y : Nat) : State := s.setFb (s.fb.setPixel x y true)

theorem test_fetch_is_big_endian : see (fun t => (t.reg 1, t.pc)) 0x612A (start 0x200 []) = some (0x2A, 0x202) := by decide
theorem test_fetch_from_an_odd_pc : see (fun t => (t.reg 1, t.pc)) 0x612A (start 0x203 []) = some (0x2A, 0x205) := by decide
theorem test_fetch_of_the_last_word : see stop 0x0000 (start 0xFFE []) = some (true, 1, 0xFFE, 0, 0x1000) := by decide
theorem test_invalid_opcode_halts : see stop 0xFFFF (start 0x200 []) = some (true, 1, 0x200, 0xFFFF, 0x202) := by decide
theorem test_invalid_opcode_in_debug_mode :
    see stop 0xFFFF { start 0x200 [] with debugMode := true } = some (false, 1, 0x200, 0xFFFF, 0x202) := by decide
theorem test_underflow_halts_in_debug_mode :
    see stop 0x00EE { start 0x200 [] with debugMode := true } = some (true, 3, 0x200, 0x00EE, 0x202) := by decide

theorem test_cls : see (fun t => (t.fb.pixel 63 31, t.reg VF)) 0x00E0 (lit (start 0x200 [(VF, 1)]) 63 31) = some (false, 1) := by
  decide
theorem test_ret : see (fun t => (t.sp, t.pc, t.stack[0])) 0x00EE (stacked (start 0x20C []) 1) = some (0, 0x206, 0x206) := by
  decide
theorem test_ret_underflow :
    see (fun t => (stop t, t.sp)) 0x00EE (start 0x200 []) = some ((true, 3, 0x200, 0x00EE, 0x202), 0) := by decide
theorem test_jp : see State.pc 0x1204 (start 0x20A []) = some 0x204 := by decide
theorem test_call : see (fun t => (t.stack[127], t.sp, t.pc)) 0x2300 { start 0x204 [] with sp := 127 } = some (0x206, 128, 0x300) := by
  decide
theorem test_call_overflow :
    see (fun t => (stop t, t.sp)) 0x2300 (stacked (start 0x204 []) 128) = some ((true, 2, 0x204, 0x2300, 0x206), 128) := by decide
theorem test_seImm : see State.pc 0x3100 (start 0x208 []) = some 0x20C ∧ see State.pc 0x3100 (start 0x208 [(1, 3)]) = some 0x20A := by
  decide
theorem test_sneImm :
    see State.pc 0x4005 (start 0x200 [(0, 5)]) = some 0x202 ∧ see State.pc 0x4006 (start 0x200 [(0, 5)]) = some 0x204 := by decide
theorem test_seReg :
    see State.pc 0x5120 (start 0x200 [(1, 7), (2, 7)]) = some 0x204 ∧
    see State.pc 0x5120 (start 0x200 [(1, 7), (2, 8)]) = some 0x202 := by decide
theorem test_sneReg :
    see State.pc 0x9120 (start 0x200 [(1, 7), (2, 8)]) = some 0x204 ∧ see State.pc 0x9330 (start 0x200 [(3, 9)]) = some 0x202 := by
  decide
theorem test_jpV0 : see State.pc 0xBFFF (start 0x202 [(0, 0xFF)]) = some 0x10FE := by decide

/-- Vx and VF after a cycle. -/
def regAndFlag (x : Reg) (t : State) : Byte × Byte := (t.reg x, t.reg VF)

theorem test_ldImm : see (State.reg · VF) 0x6F07 (start 0x200 []) = some 0x07 := by decide
theorem test_addImm_keeps_the_flag : see (regAndFlag 1) 0x7101 (start 0x200 [(1, 0xFF)]) = some (0, 0) := by decide
theorem test_ldReg : see (State.reg · 1) 0x8120 (start 0x200 [(2, 9)]) = some 9 := by decide
theorem test_orReg : see (regAndFlag 1) 0x8121 (start 0x200 [(1, 0xF0), (2, 0x0F), (VF, 1)]) = some (0xFF, 1) := by decide
theorem test_andReg : see (State.reg · 1) 0x8122 (start 0x200 [(1, 0xF3), (2, 0x3F)]) = some 0x33 := by decide
theorem test_xorReg : see (State.reg · 1) 0x8123 (start 0x200 [(1, 0xFF), (2, 0x0F)]) = some 0xF0 := by decide
theorem test_addReg : see (regAndFlag 1) 0x8124 (start 0x200 [(1, 0xFF), (2, 0x01)]) = some (0, 1) := by decide
theorem test_addReg_into_the_flag : see (regAndFlag VF) 0x8F14 (start 0x200 [(VF, 0xFF), (1, 0x01)]) = some (1, 1) := by decide
theorem test_subReg : see (regAndFlag 1) 0x8125 (start 0x200 [(1, 0x01), (2, 0x02)]) = some (0xFF, 0) := by decide
theorem test_subReg_of_equals : see (regAndFlag 1) 0x8125 (start 0x200 [(1, 0x05), (2, 0x05)]) = some (0, 1) := by decide
theorem test_shr_ignores_y : see (regAndFlag 1) 0x8126 (start 0x200 [(1, 0x04), (2, 0xFF)]) = some (2, 0) := by decide
theorem test_shr_of_the_flag : see (regAndFlag VF) 0x8F06 (start 0x200 [(VF, 0x02)]) = some (0, 0) := by decide
theorem test_subn : see (regAndFlag 1) 0x8127 (start 0x200 [(1, 0x02), (2, 0x01)]) = some (0xFF, 0) := by decide
theorem test_subn_without_borrow : see (regAndFlag 1) 0x8127 (start 0x200 [(1, 0x01), (2, 0x03)]) = some (2, 1) := by decide
theorem test_shl : see (regAndFlag 1) 0x810E (start 0x200 [(1, 0x81)]) = some (2, 1) := by decide
theorem test_rnd : see (State.reg · 1) 0xC10F (sampled (start 0x200 []) 0 0xA7) = some 0x07 := by decide

theorem test_ldI : see State.I 0xAFFF (start 0x200 []) = some 0x0FFF := by decide
theorem test_addI_wraps_without_flag :
    see (fun t => (t.I, t.reg VF)) 0xF01E (start 0x200 [(0, 1)] 0xFFFF) = some (0, 0) := by decide
theorem test_ldF : see State.I 0xF029 { start 0x200 [(0, 0x0A)] with fontBase := 0x50 } = some 0x82 := by decide
theorem test_ldF_does_not_mask : see State.I 0xF029 { start 0x200 [(0, 0xFF)] with fontBase := 0 } = some 0x4FB := by decide
theorem test_ldB :
    see (fun t => ([0x300, 0x301, 0x302].map t.mem.read, t.I)) 0xF033 (start 0x200 [(0, 254)] 0x300) =
      some ([2, 5, 4], 0x300) := by decide
theorem test_ldB_off_memory :
    see (fun t => (stop t, [0xFFE, 0xFFF].map t.mem.read)) 0xF033 (start 0x202 [(0, 255)] 0xFFE) =
      some ((true, 4, 0x202, 0xF033, 0x204), [0, 0]) := by decide
theorem test_storeRegs :
    see (fun t => ([0x400, 0x401, 0x402, 0x403].map t.mem.read, t.I)) 0xF255
      (start 0x200 [(0, 1), (1, 2), (2, 3), (3, 4)] 0x400) = some ([1, 2, 3, 0], 0x400) := by decide
theorem test_storeRegs_off_memory :
    see (fun t => (stop t, t.mem.read 0xFFF)) 0xF155 (start 0x200 [(0, 9)] 0xFFF) =
      some ((true, 4, 0x200, 0xF155, 0x202), 0) := by decide
theorem test_loadRegs :
    see (fun t => ([0, 1, 2, 3].map t.reg, t.I)) 0xF265 (holding (start 0x200 [(3, 7)] 0x300) 0x300 [2, 5, 4, 9]) =
      some ([2, 5, 4, 7], 0x300) := by decide
theorem test_loadRegs_off_memory : see stop 0xF065 (start 0x200 [] 0x1000) = some (true, 4, 0x200, 0xF065, 0x202) := by decide

/-- The first eight pixels of a row, from the left. -/
def row8 (t : State) (y : Nat) : List Bool := (List.range 8).map (t.fb.pixel · y)

theorem test_drw_glyph :
    see (fun t => (row8 t 0, row8 t 1, row8 t 4, row8 t 5, t.reg VF)) 0xD005
      (holding (start 0x200 [] 0x300) 0x300 [0xF0, 0x90, 0x90, 0x90, 0xF0]) =
      some ([true, true, true, true, false, false, false, false], [true, false, false, true, false, false, false, false],
        [true, true, true, true, false, false, false, false], List.replicate 8 false, 0) := by decide
theorem test_drw_collides_and_clips :
    see (fun t => (t.fb.pixel 63 0, t.reg VF)) 0xD011 (lit (holding (start 0x200 [(0, 56)] 0x300) 0x300 [0x01]) 63 0) =
      some (false, 1) ∧
    see (fun t => (t.fb.pixel 0 0, t.reg VF)) 0xD011 (lit (holding (start 0x200 [(0, 57)] 0x300) 0x300 [0x01]) 0 0) =
      some (true, 0) := by decide

theorem test_skp :
    see State.pc 0xE19E (sampled (start 0x200 [(1, 0x0A)]) 10 0) = some 0x204 ∧
    see State.pc 0xE19E (sampled (start 0x200 [(1, 0x0A)]) 1 0) = some 0x202 := by decide
theorem test_skp_of_no_key : see stop 0xE09E (start 0x202 [(0, 0x10)]) = some (true, 4, 0x202, 0xE09E, 0x204) := by decide
theorem test_sknp :
    see State.pc 0xE1A1 (sampled (start 0x200 [(1, 0x0A)]) 1 0) = some 0x204 ∧
    see State.pc 0xE1A1 (sampled (start 0x200 [(1, 0x0A)]) 10 0) = some 0x202 := by decide
theorem test_waitk_waits :
    see (fun t => (t.pc, t.reg 0)) 0xF00A (sampled (start 0x202 [(0, 5)]) 6 0) = some (0x202, 5) := by decide
theorem test_waitk_falls_through :
    see (fun t => (t.pc, t.reg 0)) 0xF00A (sampled (start 0x202 [(0, 5)]) 5 0) = some (0x204, 5) := by decide
theorem test_ldVxDT : see (State.reg · 1) 0xF107 ((start 0x200 []).setDT 0x3C) = some 0x3C := by decide
theorem test_ldDT : see State.DT 0xF015 (start 0x200 [(0, 60)]) = some 60 := by decide
theorem test_ldST :
    see (fun t => (t.ST, t.soundActive)) 0xF318 (start 0x200 [(3, 2)]) = some (2, true) ∧
    see (fun t => (t.ST, t.soundActive)) 0xF018 ((start 0x200 []).setST 9) = some (0, false) := by decide

/-! ## Step, scheduler, Reset (2.2, 2.8, 2.10) -/

/-- The state a step answers. -/
def stepped (s : State) : Option State :=
  match step s with
  | .next t => some t
  | .fault _ => none
  | .refused _ => none

/-- The state a Frame answers. -/
def framed (dt : Rat) (s : State) : Option State :=
  match frame dt s with
  | .next t => some t
  | .fault _ => none
  | .refused _ => none

theorem test_step_runs_the_placed_word :
    (stepped (State.reset.withFetchWord 16 0x612A)).map (fun t => (t.reg 1, t.pc, t.timerPhase)) = some (0x2A, 0x202, 60) := by
  decide +kernel
theorem test_step_off_memory :
    (stepped { State.reset with pc := 0xFFF }).map stop = some (true, 4, 0xFFF, 0, 0xFFF) := by decide +kernel
theorem test_step_of_the_empty_program :
    (stepped State.reset).map stop = some (true, 1, 0x200, 0, 0x202) := by decide +kernel
theorem test_timerTick :
    ({ State.reset with ST := 1 } : State).timerTick.ST = 0 ∧ ({ State.reset with ST := 1 } : State).timerTick.DT = 0 ∧
    ({ State.reset with DT := 255 } : State).timerTick.DT = 254 := by decide
theorem test_tick_after_the_ninth_instruction :
    ({ State.reset with DT := 60, timerPhase := 480 } : State).accrue.DT = 59 ∧
    ({ State.reset with DT := 60, timerPhase := 480 } : State).accrue.accTimer = 9 / 500 - 1 / 60 := by decide +kernel
theorem test_two_ticks_after_one_slow_instruction :
    ({ State.reset with DT := 5, clockFrequency := 30 } : State).accrue.DT = 3 := by decide +kernel
/-- A font whose glyph 0 is the one the spec's source prints (S5); the other glyphs are zero bytes. -/
def glyph0Font : Vector Byte 80 := ⟨#[0xF0, 0x90, 0x90, 0x90, 0xF0] ++ Array.replicate 75 0, by simp⟩

/-- What a block holds, once a Reset of the empty program has loaded it. -/
def afterReset {α : Type} (f : State → α) (b : Block) : Option α :=
  match command (.reset none [] glyph0Font) b with
  | .next (.loaded t) => some (f t)
  | .next (.fresh _) => none
  | .fault _ => none
  | .refused _ => none

theorem test_debug_mode_set_before_the_first_reset :
    afterReset State.debugMode (Block.setDebugMode true (.fresh {})) = some true := by decide +kernel
theorem test_frame_saves_time :
    (framed (1 / 1000) State.reset).map (fun t => (t.accCpu, t.pc)) = some (1 / 1000, 0x200) := by decide +kernel

theorem test_reset_loads_font_and_program :
    let t := State.resetCommand [0x12, 0x00] glyph0Font { start 0x300 [(1, 9)] 5 with fontBase := 0 }
    [0, 1, 4, 5, 512, 513, 514].map t.mem.read = [0xF0, 0x90, 0xF0, 0, 0x12, 0, 0] ∧ t.pc = 0x200 ∧ t.I = 0 ∧ t.reg 1 = 0 := by
  decide

/-! ## Witnesses: for each statement with hypotheses, inputs that meet them, each clause at a boundary of its range -/

theorem witness_DecodeOfEncodeIsTheInstruction :
    WellFormed (.drw 15 15 15) = true ∧ WellFormed (.jpV0 4095) = true ∧ WellFormed (.jp 0) = true := by decide

theorem witness_EncodeOfDecodeIsTheWord : decodeWord 0x800E#16 = .ok (.shl 0 0) ∧ decodeWord 0xDFFF#16 = .ok (.drw 15 15 15) := by
  decide

theorem witness_OpcodeRowsAreDisjoint : matchesRow 0x00EE#16 1 = true ∧ matchesRow 0xFF65#16 33 = true := by decide

theorem witness_DecodesToTheRowThatMatches : decodeWord 0x812E#16 = .ok (.shl 1 2) ∧ matchesRow 0x812E#16 18 = true := by decide

/-- For JumpSetsPc, JumpV0SetsPcToTheSum and IndexLoadsAndAdds: the ends of the range of NNN. -/
theorem witness_addresses : (0 : Nat) < 4096 ∧ (4095 : Nat) < 4096 := by decide

theorem witness_CallPushesOrOverflows :
    ((4095 : Nat) < 4096) ∧ ({ start 0x204 [] with sp := 127 } : State).sp.val < 128 ∧ (stacked (start 0x204 []) 128).sp.val = 128 := by
  decide

theorem witness_ReturnPopsOrUnderflows :
    0 < (stacked (start 0x200 []) 1).sp.val ∧ 0 < (stacked (start 0x200 []) 128).sp.val ∧ (start 0x200 []).sp.val = 0 := by decide

theorem witness_CallThenReturnComesBack : (stacked (start 0x200 []) 127).sp.val < 128 := by decide

/-- For AddSetsCarry, SubtractSetsNotBorrow and ShiftsSetTheBitShiftedOut. -/
theorem witness_destination_is_not_the_flag : (14 : Reg) ≠ VF := by decide

theorem witness_RandomIsMaskedByNN :
    (sampled (start 0x200 []) 3 0xA7).feed = ⟨(Vector.replicate 16 false).set 3 true, 0xA7⟩ :: [] ∧ (0x0F#8).getLsbD 7 = false := by
  decide

theorem witness_DecimalDigitsStored :
    (start 0x200 [(0, 255)] 0xFFD).I.toNat + 2 ≤ 4095 ∧ (start 0x200 [(0, 255)] 0xFFE).I.toNat + 2 > 4095 := by decide

/-- For RegistersStored and RegistersLoaded: the last address that exists, and the first that does not. -/
theorem witness_RegistersStoredAndLoaded :
    (start 0x200 [] 0xFF0).I.toNat + (15 : Reg).val ≤ 4095 ∧ (0 : Reg) ≤ 15 ∧ (start 0x200 [] 0xFF1).I.toNat + (15 : Reg).val > 4095 := by
  decide

/-- Fetches at the ends of memory; the last run that fits, of either instruction. -/
theorem witness_StoreIsSeenByTheNextFetch :
    (0xFFE#16).toNat + 1 ≤ 4095 ∧ (0#16).toNat + 1 ≤ 4095 ∧ (start 0x200 [] 0xFF0).I.toNat + (15 : Reg).val ≤ 4095 ∧
    (start 0x200 [] 0xFFD).I.toNat + 2 ≤ 4095 := by decide

theorem witness_ClearScreen : (63 : Nat) < 64 ∧ (31 : Nat) < 32 := by decide

theorem witness_DrawXorsAndReportsCollision :
    (1 = 0 ∨ (start 0x200 [] 0xFFF).I.toNat + 1 - 1 ≤ 4095) ∧ (0 = 0 ∨ (start 0x200 [] 0xFFFF).I.toNat + 0 - 1 ≤ 4095) := by decide

theorem witness_DrawOutOfBoundsFaults : 0 < 2 ∧ (start 0x200 [] 0xFFF).I.toNat + 2 - 1 > 4095 := by decide

theorem witness_DrawTwiceRestoresTheScreen :
    ∃ t u, (1 = 0 ∨ (start 0x200 [] 0xFFF).I.toNat + 1 - 1 ≤ 4095) ∧ (0 : Reg) ≠ VF ∧ (1 : Reg) ≠ VF ∧
      exec (.drw 0 1 1) (start 0x200 [] 0xFFF) = .next t ∧ exec (.drw 0 1 1) t = .next u :=
  ⟨_, _, by decide, by decide, by decide, rfl, rfl⟩

theorem witness_KeySkips : (start 0x200 [(1, 15)]).V[(1 : Reg)].toNat < 16 ∧ (start 0x200 [(1, 16)]).V[(1 : Reg)].toNat ≥ 16 := by
  decide

theorem witness_WaitKeyFallsThroughOrRepeats :
    (∃ _h : (sampled (start 0x200 [(0, 15)]) 15 0).V[(0 : Reg)].toNat < 16,
      (sampled (start 0x200 [(0, 15)]) 15 0).sample.key[15] = true) ∧
    (∃ _h : (sampled (start 0x200 [(0, 15)]) 14 0).V[(0 : Reg)].toNat < 16,
      (sampled (start 0x200 [(0, 15)]) 14 0).sample.key[15] = false) ∧
    (start 0x200 [(0, 16)]).V[(0 : Reg)].toNat ≥ 16 := ⟨⟨by decide, by decide⟩, ⟨by decide, by decide⟩, by decide⟩

theorem witness_OnlySixInstructionsWriteTheFlag :
    (∃ t, exec (.addReg 0 1) (start 0x202 []) = .next t ∧ t.halted = (start 0x202 []).halted ∧ writesFlag (.addReg 0 1) = true ∧
      (start 0x202 []).halted = false) ∧
    (∃ t, exec (.addImm 14 1) (start 0x202 []) = .next t ∧ t.halted = (start 0x202 []).halted ∧ writesFlag (.addImm 14 1) = false ∧
      VF ∉ (ruleWrites (start 0x202 []) (.addImm 14 1)).regs) :=
  ⟨⟨_, rfl, by decide, by decide, by decide⟩, ⟨_, rfl, by decide, by decide, by decide⟩⟩

theorem witness_OnlyKeyAndRandomInstructionsReadInputs : readsKeys (.rnd 0 0) = false ∧ readsRandom (.skp 0) = false := by decide

theorem witness_OnlyOwnersChangeMemoryStackScreenAndIndex :
    (∃ t, step ((start 0x200 [(0, 254)] 0x300).withFetchWord 16 0xF033) = .next t ∧
      t.mem.read 0x300 ≠ ((start 0x200 [(0, 254)] 0x300).withFetchWord 16 0xF033).mem.read 0x300) ∧
    (∃ t, step ((start 0x200 []).withFetchWord 16 0x2300) = .next t ∧ t.sp ≠ ((start 0x200 []).withFetchWord 16 0x2300).sp) ∧
    (∃ t, step ((lit (start 0x200 []) 0 0).withFetchWord 16 0x00E0) = .next t ∧
      t.fb ≠ ((lit (start 0x200 []) 0 0).withFetchWord 16 0x00E0).fb) ∧
    (∃ t, step ((start 0x200 []).withFetchWord 16 0xA300) = .next t ∧ t.I ≠ ((start 0x200 []).withFetchWord 16 0xA300).I) :=
  ⟨⟨_, rfl, by decide +kernel⟩, ⟨_, rfl, by decide +kernel⟩, ⟨_, rfl, by decide +kernel⟩, ⟨_, rfl, by decide +kernel⟩⟩

theorem witness_StepRunsTheDecodedInstruction :
    ((start 0xFFE []).withFetchWord 16 0x612A).halted = false ∧ ((start 0xFFE []).withFetchWord 16 0x612A).pc.toNat + 1 ≤ 4095 ∧
    decodeWord (wordOfBytes (((start 0xFFE []).withFetchWord 16 0x612A).mem.read 0xFFE)
      (((start 0xFFE []).withFetchWord 16 0x612A).mem.read 0xFFF)) = .ok (.ldImm 1 0x2A) := by decide

theorem witness_FetchOffMemoryFaults :
    (start 0xFFF []).halted = false ∧ (start 0xFFF []).pc.toNat ≥ 4095 ∧ (start 0x10FE []).pc.toNat ≥ 4095 := by decide

/-- 0xFFFF is no instruction's word. -/
theorem no_instruction_FFFF (i : Instr) : decodeWord 0xFFFF#16 ≠ .ok i := by
  have h : decodeWord 0xFFFF#16 = .error (.invalidOpcode 0xFFFF#16) := by decide
  rw [h]; simp

theorem witness_InvalidOpcodeHalts :
    (start 0x200 []).halted = false ∧ (start 0x200 []).debugMode = false ∧
    ((start 0x200 []).placeFetchWord 0xFFFF).fetchWord = some 0xFFFF#16 ∧ ∀ i, decodeWord 0xFFFF#16 ≠ .ok i :=
  ⟨by decide, by decide, by decide, no_instruction_FFFF⟩

theorem witness_DebugModeLogsInvalidOpcode :
    let s := ({ start 0x200 [] with debugMode := true } : State).placeFetchWord 0xFFFF
    s.halted = false ∧ s.debugMode = true ∧ s.fetchWord = some 0xFFFF#16 ∧ ∀ i, decodeWord 0xFFFF#16 ≠ .ok i :=
  ⟨by decide, by decide, by decide, no_instruction_FFFF⟩

/-- A halted block, and the least delta. -/
theorem witness_HaltedBlockDoesNothing : ({ start 0x200 [] with halted := true } : State).halted = true ∧ (0 : Rat) ≤ 0 := by
  decide +kernel

theorem witness_RunningBlockAlwaysSteps : (start 0xFFFF []).halted = false := by decide

theorem witness_FaultsArePrecise :
    (∃ t, step (start 0x200 []) = .next t ∧ t.halted = true ∧ t.pc = 0x202) ∧
    (∃ t, step (start 0xFFF []) = .next t ∧ t.halted = true ∧ t.pc = 0xFFF) :=
  ⟨⟨_, rfl, by decide +kernel⟩, ⟨_, rfl, by decide +kernel⟩⟩

/-- A block at work: inside a call, with time saved up, timers running and a store about to run. -/
def busy : State :=
  { (stacked (start 0x300 [(0, 254), (VF, 1)] 0xFFD) 2).withFetchWord 16 0xF033 with
    DT := 60, ST := 1, accCpu := 1 / 1000, timerPhase := 499 }

theorem busy_inv : Inv busy where
  memory := by decide
  clock := by decide +kernel
  cpuTime := by decide +kernel
  timerTime := by decide +kernel
  pcBound := by decide
  returnAddresses := by decide
  status := by decide
  noFaultZero := by decide

theorem witness_StepKeepsTheInvariant : ∃ t, Inv busy ∧ step busy = .next t := ⟨_, busy_inv, rfl⟩

/-- A Frame that leaves `f` equal to `v` answers a next state with that. -/
theorem frame_of_framed {α : Type} {dt : Rat} {s : State} {f : State → α} {v : α} (h : (framed dt s).map f = some v) :
    ∃ t, frame dt s = .next t ∧ f t = v := by
  unfold framed at h
  cases e : frame dt s with
  | next t => exact ⟨t, rfl, by simpa [e] using h⟩
  | fault _ => simp [e] at h
  | refused _ => simp [e] at h

theorem witness_FrameKeepsTheInvariant : ∃ t, Inv busy ∧ frame (1 / 1000) busy = .next t :=
  let ⟨t, h, _⟩ := frame_of_framed (f := State.halted) (v := false) (by decide +kernel : _ = some false)
  ⟨t, busy_inv, h⟩

/-- For ResetClearsTheState, ResetMemoryMap, ResetForgetsThePreviousState (the longest program) and
ResetWithTooLongAProgramHalts (the shortest). -/
theorem witness_ResetCommand :
    (List.replicate 3584 (0x12 : Byte)).length ≤ 3584 ∧ (List.replicate 3585 (0x12 : Byte)).length > 3584 :=
  ⟨List.length_replicate.le, lt_of_lt_of_eq (by norm_num) List.length_replicate.symm⟩

theorem witness_CommandsOutsideTheContractAreRefused :
    (-1 / 60 : Rat) < 0 ∧ (¬ (0 : Rat) < 0) ∧ (0 : Rat) < 500 ∧ 0 < State.reset.clockFrequency ∧
    0 < (Block.fresh {}).underReset.clockFrequency ∧ 0 < (Block.loaded busy).underReset.clockFrequency ∧
    ¬ 0 < (Block.fresh { clockFrequency := 0 }).underReset.clockFrequency := by decide +kernel

theorem witness_ResetStateHasTheInvariant : 0 < busy.clockFrequency := by decide +kernel

/-- For AccrualDeliversTheDueTicks, TicksAfterManyCycles, FrameIsThatManySteps and FrameOfOnePeriodIsOneStep. -/
theorem witness_scheduler :
    0 < State.reset.clockFrequency ∧ State.reset.timerPhase = 0 ∧ State.reset.halted = false ∧ 0 ≤ State.reset.accCpu ∧
    State.reset.accCpu < State.reset.instructionPeriod ∧ (0 : Rat) ≤ 1 / 50 := by decide +kernel

theorem witness_TimerPhaseDependsOnlyOnTheNumberOfSteps :
    ∃ t, 0 < ((start 0x200 []).withFetchWord 16 0x1200).clockFrequency ∧
      ((start 0x200 []).withFetchWord 16 0x1200).timerPhase = 0 ∧
      Host.Core.run Sys2Proof.core 2 ((start 0x200 []).withFetchWord 16 0x1200) = .next t ∧ t.halted = false :=
  ⟨_, by decide +kernel, by decide +kernel, rfl, by decide +kernel⟩

theorem witness_FramesAddUp :
    ∃ t, 0 < busy.clockFrequency ∧ 0 ≤ busy.accCpu ∧ (0 : Rat) ≤ 1 / 10000 ∧ (0 : Rat) ≤ 1 / 60 ∧
      frame (1 / 10000) busy = .next t ∧ t.halted = false :=
  let ⟨t, h, ht⟩ := frame_of_framed (f := State.halted) (v := false) (by decide +kernel : _ = some false)
  ⟨t, by decide +kernel, by decide +kernel, by decide +kernel, by decide +kernel, h, ht⟩

end Sys2Proof.Tests
end

section
/-! SUPPORT. Everything one instruction can do, said once: the shapes of its next state (`Effect`), that `exec` answers
one of them for every instruction, and the frame that each shape has. -/

namespace Sys2Proof.Machine

open Sys2Proof.Claims

/-- An address outside a run of stored bytes reads as before (R60). -/
theorem read_writeAll_of_notMem (m : Memory) (a b : Nat) (vs : List Byte) (h : b ∉ bytesFrom a vs.length) :
    (m.writeAll a vs).read b = m.read b := by
  induction vs generalizing m a with
  | nil => rfl
  | cons v vs ih =>
    simp only [bytesFrom, List.length_cons, List.mem_map, List.mem_range, not_exists, not_and] at h ih
    have hb : b ≠ a := fun e => h 0 (by omega) e.symm
    rw [Memory.writeAll, ih _ _ fun k hk e => h (k + 1) (by omega) (by omega), Memory.read_write, if_neg hb]

/-- A run of bytes from I on fits memory when its last address does. -/
theorem run_fits {s : State} {n : Nat} {vs : List Byte} (hl : vs.length = n + 1) (h : s.ea n ≤ Config.memTop) :
    s.ea 0 + vs.length ≤ Config.memSize := by
  rw [hl]
  exact Nat.succ_le_succ h

/-- Nothing changed: within the frame of any instruction. -/
theorem onlyWrites_refl (w : Writes) (s : State) : OnlyWrites w s s where
  regs _ _ := rfl
  index _ := rfl
  pc _ := rfl
  stack _ := ⟨rfl, rfl⟩
  delay _ := rfl
  sound _ := rfl
  bytes _ _ := rfl
  screen _ := rfl
  status := ⟨rfl, rfl⟩
  scheduler := ⟨rfl, rfl⟩
  configuration := ⟨rfl, rfl, rfl⟩
  inputs := ⟨rfl, rfl⟩

/-- The shapes of the state that an instruction leaves, on the state `s` after its fetch; each within what the
instruction's rule lists as written. -/
inductive Effect (i : Instr) (s : State) : State → Prop
  /-- General registers and pixels. -/
  | data (V : Vector Byte 16) (fb : Framebuffer) (hV : ∀ r : Reg, r ∉ (ruleWrites s i).regs → V[r] = s.V[r])
      (hfb : (ruleWrites s i).screen = false → fb = s.fb) : Effect i s { s with V := V, fb := fb }
  /-- The index register. -/
  | index (a : Word) (hi : (ruleWrites s i).index = true) : Effect i s (s.setI a)
  /-- The delay timer. -/
  | delay (b : Byte) (hd : (ruleWrites s i).delay = true) : Effect i s (s.setDT b)
  /-- The sound timer. -/
  | sound (b : Byte) (hs : (ruleWrites s i).sound = true) : Effect i s (s.setST b)
  /-- pc as the fetch left it, one instruction further (R123), or back at this one (R182). -/
  | skip (a : Word) (ha : a ∈ [s.pc, s.pc + 2, s.pc - 2]) (hp : (ruleWrites s i).pc = true) : Effect i s (s.setPc a)
  /-- pc at a target that a 12-bit NNN gives, at most 0xFFF + 0xFF (R23, R122). -/
  | jump (a : Word) (ha : WellFormed i = true → a.toNat ≤ 0x10FE) (hp : (ruleWrites s i).pc = true) :
      Effect i s (s.setPc a)
  /-- A call that finds room on the stack (R117). -/
  | call (nnn : Nat) (hi : i = .call nnn) (h : s.sp.val < Config.stackCapacity) :
      Effect i s ((s.push h).setPc (immAddress nnn))
  /-- A return from a stack that is not empty (R115). -/
  | ret (hi : i = .ret) (hsp : s.sp.val ≠ 0) : Effect i s s.popPc
  /-- A run of bytes stored from I on, inside memory (R153, R154). -/
  | store (vs : List Byte) (hvs : s.ea 0 + vs.length ≤ Config.memSize)
      (hb : (ruleWrites s i).bytes = bytesFrom (s.ea 0) vs.length) :
      Effect i s (s.setMem (s.mem.writeAll (s.ea 0) vs))
  /-- One of the three faults of execution, before any effect (R222). -/
  | fault (code : FaultCode) (hc : code ∈ [FaultCode.stackOverflow, .stackUnderflow, .outOfBoundsAccess]) :
      Effect i s (faulted s code i)

namespace Effect

variable {i : Instr} {s t : State}

/-- The one register of the rule's list written. -/
theorem setReg {x : Reg} (b : Byte) (hx : (ruleWrites s i).regs = [x]) : Effect i s (s.setReg x b) :=
  data _ s.fb (fun r hr => (V_setReg s x r b).trans (if_neg (by simpa [hx] using hr))) fun _ => rfl

/-- A result and its flag. -/
theorem setFlagged {x : Reg} (b : Byte) (c : Bool) (hx : (ruleWrites s i).regs = [x, VF]) :
    Effect i s (s.setFlagged x b c) := by
  refine data _ s.fb (fun r hr => ?_) fun _ => rfl
  obtain ⟨hrx, hrF⟩ : r ≠ x ∧ r ≠ VF := by simpa [hx] using hr
  exact (V_setFlagged s x r b c).trans (by rw [if_neg hrF, if_neg hrx])

/-- A skip, taken or not. -/
theorem skipIf (p : Prop) [Decidable p] (hp : (ruleWrites s i).pc = true) : Effect i s (if p then s.skip else s) := by
  split
  · exact skip (s.pc + 2) (by simp) hp
  · exact skip s.pc (by simp) hp

/-- A checked access goes through, or faults. -/
theorem of_guardAddress {last : Nat} (ht : last ≤ Config.memTop → Effect i s t) :
    ∃ u, guardAddress i last s t = .next u ∧ Effect i s u := by
  obtain ⟨hle, h⟩ | ⟨-, h⟩ := guardAddress_cases i last s t
  · exact ⟨t, h, ht hle⟩
  · exact ⟨_, h, fault .outOfBoundsAccess (by simp)⟩

/-- A key instruction goes one way or the other, or faults. -/
theorem of_guardKey {x : Reg} {f : Bool → State} (hf : ∀ down, Effect i s (f down)) :
    ∃ u, guardKey i x s f = .next u ∧ Effect i s u := by
  obtain ⟨_, h⟩ | ⟨-, h⟩ := guardKey_cases i x s f
  · exact ⟨_, h, hf _⟩
  · exact ⟨_, h, fault .outOfBoundsAccess (by simp)⟩

/-- What each shape leaves unchanged: all but what the rule lists; or it is a fault, with the rest of the state as it
was (R108, R222). -/
theorem onlyWrites_or_faulted (h : Effect i s t) :
    OnlyWrites (ruleWrites s i) s t ∨
      ∃ code, code ∈ [FaultCode.stackOverflow, .stackUnderflow, .outOfBoundsAccess] ∧ t = faulted s code i := by
  have same := onlyWrites_refl (ruleWrites s i) s
  cases h with
  | data V fb hV hfb => exact .inl { same with regs := hV, screen := hfb }
  | index a hi => exact .inl { same with index := by simp [hi] }
  | delay b hd => exact .inl { same with delay := by simp [hd] }
  | sound b hs => exact .inl { same with sound := by simp [hs] }
  | skip a _ hp => exact .inl { same with pc := by simp [hp] }
  | jump a _ hp => exact .inl { same with pc := by simp [hp] }
  | call nnn hi h => subst hi; exact .inl { same with pc := nofun, stack := nofun }
  | ret hi => subst hi; exact .inl { same with pc := nofun, stack := nofun }
  | store vs _ hb => exact .inl { same with bytes := fun a ha => read_writeAll_of_notMem _ _ _ _ (hb ▸ ha) }
  | fault code hc => exact .inr ⟨code, hc, rfl⟩

end Effect

/-- Every instruction answers a next state of one of the shapes (R105, R109). -/
theorem exec_effect (s : State) : ∀ i : Instr, ∃ t, exec i s = .next t ∧ Effect i s t
  | .cls => ⟨_, rfl, .data s.V _ (fun _ _ => rfl) nofun⟩
  | .ret => by
    by_cases h : s.sp.val = 0
    · exact ⟨_, if_pos h, .fault .stackUnderflow (by simp)⟩
    · exact ⟨_, if_neg h, .ret rfl h⟩
  | .jp nnn => ⟨_, rfl, .jump _ (fun hw => by
      have hn : nnn < 4096 := of_decide_eq_true hw
      rw [immAddress_toNat hn]; omega) rfl⟩
  | .call nnn => by
    by_cases h : s.sp.val < Config.stackCapacity
    · exact ⟨_, dif_pos h, .call nnn rfl h⟩
    · exact ⟨_, dif_neg h, .fault .stackOverflow (by simp)⟩
  | .seImm _ _ => ⟨_, rfl, .skipIf _ rfl⟩
  | .sneImm _ _ => ⟨_, rfl, .skipIf _ rfl⟩
  | .seReg _ _ => ⟨_, rfl, .skipIf _ rfl⟩
  | .sneReg _ _ => ⟨_, rfl, .skipIf _ rfl⟩
  | .ldImm _ _ => ⟨_, rfl, .setReg _ rfl⟩
  | .addImm _ _ => ⟨_, rfl, .setReg _ rfl⟩
  | .ldReg _ _ => ⟨_, rfl, .setReg _ rfl⟩
  | .orReg _ _ => ⟨_, rfl, .setReg _ rfl⟩
  | .andReg _ _ => ⟨_, rfl, .setReg _ rfl⟩
  | .xorReg _ _ => ⟨_, rfl, .setReg _ rfl⟩
  | .addReg _ _ => ⟨_, rfl, .setFlagged _ _ rfl⟩
  | .subReg _ _ => ⟨_, rfl, .setFlagged _ _ rfl⟩
  | .shr _ _ => ⟨_, rfl, .setFlagged _ _ rfl⟩
  | .subn _ _ => ⟨_, rfl, .setFlagged _ _ rfl⟩
  | .shl _ _ => ⟨_, rfl, .setFlagged _ _ rfl⟩
  | .ldI _ => ⟨_, rfl, .index _ rfl⟩
  | .jpV0 nnn => ⟨_, rfl, .jump _ (fun hw => by
      have hn : nnn < 4096 := of_decide_eq_true hw
      have := (s.reg 0).isLt
      rw [jumpV0Target_toNat s hn]; omega) rfl⟩
  | .rnd _ _ => ⟨_, rfl, .setReg _ rfl⟩
  | .drw x y n => Effect.of_guardAddress fun _ => .data _ (s.blit x y n).1 (fun r hr =>
      (V_setReg (s.setFb _) VF r _).trans (if_neg fun e : r = VF => hr (e ▸ List.mem_cons_self))) nofun
  | .skp x => Effect.of_guardKey (x := x) (f := fun down => if down then s.skip else s) fun _ => .skipIf _ rfl
  | .sknp x => Effect.of_guardKey (x := x) (f := fun down => if down then s else s.skip) fun down => by
    cases down
    · exact .skip (s.pc + 2) (by simp) rfl
    · exact .skip s.pc (by simp) rfl
  | .waitk x => Effect.of_guardKey (x := x) (f := fun down => if down then s else s.rewind) fun down => by
    cases down
    · exact .skip (s.pc - 2) (by simp) rfl
    · exact .skip s.pc (by simp) rfl
  | .ldVxDT _ => ⟨_, rfl, .setReg _ rfl⟩
  | .ldDT _ => ⟨_, rfl, .delay _ rfl⟩
  | .ldST _ => ⟨_, rfl, .sound _ rfl⟩
  | .addI _ => ⟨_, rfl, .index _ rfl⟩
  | .ldF _ => ⟨_, rfl, .index _ rfl⟩
  | .ldB x => Effect.of_guardAddress fun hle => .store (digits (s.reg x)) (run_fits (digits_length _) hle) rfl
  | .storeRegs x => Effect.of_guardAddress fun hle => .store (s.regsUpTo x) (run_fits (regsUpTo_length s x) hle)
      (by rw [regsUpTo_length]; rfl)
  | .loadRegs x => Effect.of_guardAddress fun _ => .data _ s.fb (fun r hr => by
      have hr : ¬ r ≤ x := by simpa [ruleWrites] using hr
      rw [loadedRegs_getElem, if_neg hr]) fun _ => rfl

/-- The same, from an answer in hand. -/
theorem effect_of_exec {i : Instr} {s t : State} (h : exec i s = .next t) : Effect i s t := by
  obtain ⟨u, hu, he⟩ := exec_effect s i
  cases h.symm.trans hu
  exact he

end Sys2Proof.Machine
end

section
/-! SUPPORT. What a step can do to each part of the state: the cycle within its instruction's frame, then the scheduler's
part, which touches the timers, the phase and the inputs alone. -/

namespace Sys2Proof.Machine

open Sys2Proof.Claims

section
variable (s : State)

@[simp] theorem afterCycle_I : s.afterCycle.I = s.I := by
  obtain ⟨_, _, _, h⟩ := afterCycle_only s; rw [h]
@[simp] theorem afterCycle_sp : s.afterCycle.sp = s.sp := by
  obtain ⟨_, _, _, h⟩ := afterCycle_only s; rw [h]
@[simp] theorem afterCycle_stack : s.afterCycle.stack = s.stack := by
  obtain ⟨_, _, _, h⟩ := afterCycle_only s; rw [h]
@[simp] theorem afterCycle_mem : s.afterCycle.mem = s.mem := by
  obtain ⟨_, _, _, h⟩ := afterCycle_only s; rw [h]
@[simp] theorem afterCycle_fb : s.afterCycle.fb = s.fb := by
  obtain ⟨_, _, _, h⟩ := afterCycle_only s; rw [h]
@[simp] theorem afterCycle_accCpu : s.afterCycle.accCpu = s.accCpu := by
  obtain ⟨_, _, _, h⟩ := afterCycle_only s; rw [h]
@[simp] theorem afterCycle_clockFrequency : s.afterCycle.clockFrequency = s.clockFrequency := by
  obtain ⟨_, _, _, h⟩ := afterCycle_only s; rw [h]

end

/-- Before the scheduler's part, a step changed at most pc and the fault status (an invalid word, or a fault), or
what the rule of the fetched instruction lists. -/
theorem step_frame {s t : State} (h : step s = .next t) :
    ∃ u, t = u.afterCycle ∧
      ((∃ pc halted lastFault, u = { s with pc := pc, halted := halted, lastFault := lastFault }) ∨
        ∃ w i, s.fetchWord = some w ∧ decodeWord w = .ok i ∧ OnlyWrites (ruleWrites s.advancePc i) s.advancePc u) := by
  obtain ⟨-, ⟨-, rfl⟩ | ⟨w, hf, ⟨_, -, rfl⟩ | ⟨i, u, hd, he, rfl⟩⟩⟩ := step_cases h
  · exact ⟨_, rfl, .inl ⟨_, _, _, rfl⟩⟩
  · refine ⟨_, rfl, .inl ?_⟩
    obtain ⟨-, hu⟩ | ⟨-, hu⟩ := invalidOpcode_cases s.advancePc w <;> exact ⟨_, _, _, hu⟩
  · refine ⟨u, rfl, ?_⟩
    obtain hw | ⟨code, -, hu⟩ := (effect_of_exec he).onlyWrites_or_faulted
    · exact .inr ⟨w, i, hf, hd, hw⟩
    · exact .inl ⟨_, _, _, hu⟩

end Sys2Proof.Machine
end

section
/-! PROOFS. Who writes VF as a flag (R21). -/

namespace Sys2Proof.Machine

open Sys2Proof.Claims

/-- A flag writer leaves a flag in VF, whatever its destination, or takes a fault (R144, R166). -/
theorem writesFlag_flagByte {s t : State} :
    ∀ {i : Instr}, writesFlag i = true → exec i s = .next t → (∃ b, t.V[VF] = flagByte b) ∨ t.halted = true
  | .addReg _ _, _, rfl => .inl ⟨_, V_setFlagged s _ VF _ _⟩
  | .subReg _ _, _, rfl => .inl ⟨_, V_setFlagged s _ VF _ _⟩
  | .shr _ _, _, rfl => .inl ⟨_, V_setFlagged s _ VF _ _⟩
  | .subn _ _, _, rfl => .inl ⟨_, V_setFlagged s _ VF _ _⟩
  | .shl _ _, _, rfl => .inl ⟨_, V_setFlagged s _ VF _ _⟩
  | .drw x y n, _, h => by
    obtain ⟨-, hg⟩ | ⟨-, hg⟩ := guardAddress_cases (.drw x y n) (if n = 0 then 0 else s.ea (n - 1)) s
      ((s.setFb (s.blit x y n).1).setReg VF (flagByte (s.blit x y n).2))
    · cases hg.symm.trans h
      exact .inl ⟨_, V_setReg _ VF VF _⟩
    · cases hg.symm.trans h
      exact .inr rfl

/-- An instruction whose rule does not list VF leaves it alone; so does a fault (R222). -/
theorem VF_of_notMem {i : Instr} {s t : State} (h : exec i s = .next t) (hr : VF ∉ (ruleWrites s i).regs) :
    t.V[VF] = s.V[VF] := by
  obtain hw | ⟨code, -, rfl⟩ := (effect_of_exec h).onlyWrites_or_faulted
  · exact hw.regs VF hr
  · rfl

/-- Settles O35: the flag of a flag writer is `flagByte`, and the others are held to their rule's list. -/
theorem onlySixInstructionsWriteTheFlag : Obligations.OnlySixInstructionsWriteTheFlag := by
  intro i s t h hh
  refine ⟨fun hi hs => ?_, fun _ hr => VF_of_notMem h hr⟩
  obtain ⟨b, hb⟩ | ht := writesFlag_flagByte hi h
  · exact hb ▸ flagByte_zero_or_one b
  · simp [hs, ht] at hh

end Sys2Proof.Machine
end

section
/-! PROOFS. Who owns memory, the stack, the screen and I (R22, R24, R25, R29, R51, R58, R156). -/

namespace Sys2Proof.Machine

open Sys2Proof.Claims

section
variable {s : State}

/-- Only FX33 and FX55 list bytes of memory. -/
theorem storesBytes_owner {i : Instr} {a : Nat} (h : a ∈ (ruleWrites s i).bytes) :
    ∃ x, i = .ldB x ∨ i = .storeRegs x := by
  cases i with
  | ldB x => exact ⟨x, .inl rfl⟩
  | storeRegs x => exact ⟨x, .inr rfl⟩
  | _ => simp [ruleWrites] at h

/-- Only 00EE and 2NNN list the stack. -/
theorem stack_owner : ∀ {i : Instr}, (ruleWrites s i).stack = true → i = .ret ∨ ∃ nnn, i = .call nnn
  | .ret, _ => .inl rfl
  | .call nnn, _ => .inr ⟨nnn, rfl⟩

/-- Only 00E0 and DXYN list the screen. -/
theorem screen_owner : ∀ {i : Instr}, (ruleWrites s i).screen = true → i = .cls ∨ ∃ x y n, i = .drw x y n
  | .cls, _ => .inl rfl
  | .drw x y n, _ => .inr ⟨x, y, n, rfl⟩

/-- Only ANNN, FX1E and FX29 list I. -/
theorem index_owner : ∀ {i : Instr}, (ruleWrites s i).index = true →
    (∃ nnn, i = .ldI nnn) ∨ ∃ x, i = .addI x ∨ i = .ldF x
  | .ldI nnn, _ => .inl ⟨nnn, rfl⟩
  | .addI x, _ => .inr ⟨x, .inl rfl⟩
  | .ldF x, _ => .inr ⟨x, .inr rfl⟩

end

/-- Settles O37: a part that changed is on the list of the fetched instruction's rule. -/
theorem onlyOwnersChangeMemoryStackScreenAndIndex : Obligations.OnlyOwnersChangeMemoryStackScreenAndIndex := by
  intro s t h
  obtain ⟨u, rfl, hu⟩ := step_frame h
  simp only [afterCycle_mem, afterCycle_stack, afterCycle_sp, afterCycle_fb, afterCycle_I]
  obtain ⟨pc, halted, lastFault, rfl⟩ | ⟨w, i, hf, hd, hw⟩ := hu
  · simp
  · refine ⟨fun ⟨a, ha⟩ => ?_, fun hs => ?_, fun hb => ?_, fun hI => ?_⟩
    · have hlist : a ∈ (ruleWrites s.advancePc i).bytes := not_imp_comm.mp (hw.bytes a) ha
      obtain ⟨x, rfl | rfl⟩ := storesBytes_owner hlist
      · exact ⟨w, x, hf, .inl hd⟩
      · exact ⟨w, x, hf, .inr hd⟩
    · have hlist : (ruleWrites s.advancePc i).stack = true := eq_true_of_ne_false fun e =>
        hs.elim (absurd (hw.stack e).2) (absurd (hw.stack e).1)
      obtain rfl | ⟨nnn, rfl⟩ := stack_owner hlist
      · exact ⟨w, hf, .inl hd⟩
      · exact ⟨w, hf, .inr ⟨nnn, hd⟩⟩
    · have hlist : (ruleWrites s.advancePc i).screen = true := eq_true_of_ne_false fun e => hb (hw.screen e)
      obtain rfl | ⟨x, y, n, rfl⟩ := screen_owner hlist
      · exact ⟨w, hf, .inl hd⟩
      · exact ⟨w, hf, .inr ⟨x, y, n, hd⟩⟩
    · have hlist : (ruleWrites s.advancePc i).index = true := eq_true_of_ne_false fun e => hI (hw.index e)
      obtain ⟨nnn, rfl⟩ | ⟨x, rfl | rfl⟩ := index_owner hlist
      · exact ⟨w, hf, .inl ⟨nnn, hd⟩⟩
      · exact ⟨w, hf, .inr ⟨x, .inl hd⟩⟩
      · exact ⟨w, hf, .inr ⟨x, .inr hd⟩⟩

end Sys2Proof.Machine
end

section
/-! PROOFS. Every step, and every Frame, keeps the invariant of the machine. The loop of a Frame runs with more saved time
than the invariant allows between Frames, so the work is done on the invariant without its clause on `acc_cpu`. -/

namespace Sys2Proof.Machine

/-- The invariant but for its clause on `acc_cpu`: it holds once that is 0. -/
def InvButCpu (s : State) : Prop := Inv { s with accCpu := 0 }

section
variable {s : State}

theorem instructionPeriod_pos (h : 0 < s.clockFrequency) : 0 < s.instructionPeriod := one_div_pos.mpr h

theorem Inv.butCpu (h : Inv s) : InvButCpu s :=
  { h with cpuTime := ⟨le_rfl, fun _ => instructionPeriod_pos h.clock⟩ }

theorem InvButCpu.inv (h : InvButCpu s) (h0 : 0 ≤ s.accCpu) (hlt : s.halted = false → s.accCpu < s.instructionPeriod) :
    Inv s :=
  { h with cpuTime := ⟨h0, hlt⟩ }

end

/-! ## Words decode to well-formed instructions -/

theorem decodeZ_wellFormed {w : Word} {i : Instr} (h : decodeZ w = .ok i) : WellFormed i = true := by
  unfold decodeZ at h
  split at h
  · cases h; rfl
  · split at h <;> cases h; rfl

theorem decodeAlu_wellFormed {w : Word} {i : Instr} (h : decodeAlu w = .ok i) : WellFormed i = true := by
  unfold decodeAlu at h
  split at h <;> cases h <;> rfl

theorem decodeKey_wellFormed {w : Word} {i : Instr} (h : decodeKey w = .ok i) : WellFormed i = true := by
  unfold decodeKey at h
  split at h <;> cases h <;> rfl

theorem decodeMisc_wellFormed {w : Word} {i : Instr} (h : decodeMisc w = .ok i) : WellFormed i = true := by
  unfold decodeMisc at h
  split at h <;> cases h <;> rfl

/-- The fields of a word fit the widths they are cut to (R77). Case `h_k` is that of leading nibble k − 1. -/
theorem decodeWord_wellFormed {w : Word} {i : Instr} (h : decodeWord w = .ok i) : WellFormed i = true := by
  have hNNN : addressFits (fieldNNN w) = true := decide_eq_true (Nat.mod_lt _ (by decide))
  have hN : heightFits (fieldN w) = true := decide_eq_true (Nat.mod_lt _ (by decide))
  unfold decodeWord at h
  split at h
  case h_1 => exact decodeZ_wellFormed h
  case h_9 => exact decodeAlu_wellFormed h
  case h_15 => exact decodeKey_wellFormed h
  case h_16 => exact decodeMisc_wellFormed h
  case h_2 | h_3 | h_11 | h_12 => cases h; exact hNNN
  case h_14 => cases h; exact hN
  case h_6 | h_10 => split at h <;> cases h; rfl
  all_goals cases h <;> rfl

/-! ## The cycle and the scheduler's part -/

/-- The scheduler's part of a step ends below one timer period (R35, R200). -/
theorem afterCycle_timerPhase_lt {s : State} (h : s.timerPhase < s.phasePeriod) :
    s.afterCycle.timerPhase < s.phasePeriod := by
  cases hh : s.halted with
  | true => rwa [afterCycle_of_halted hh]
  | false =>
    rw [afterCycle_of_running hh]
    exact tickLoop_phase_lt _ { s with timerPhase := s.timerPhase + s.phaseStep } (Nat.zero_lt_of_lt h) le_rfl

theorem InvButCpu.afterCycle {s : State} (h : InvButCpu s) : InvButCpu s.afterCycle := by
  have ht : s.afterCycle.timerPhase < s.phasePeriod := afterCycle_timerPhase_lt h.timerTime
  obtain ⟨dt, st, phase, hs⟩ := afterCycle_only s
  rw [hs] at ht ⊢
  exact { h with timerTime := ht }

/-- Each shape of a next state keeps the invariant, from a pc that a fetch can leave (R102, R104). -/
theorem Effect.invButCpu {i : Instr} {s t : State} (he : Effect i s t) (hi : WellFormed i = true) (h : InvButCpu s)
    (hlo : 2 ≤ s.pc.toNat) (hhi : s.pc.toNat ≤ 0x1000) : InvButCpu t := by
  cases he with
  | data V fb => exact { h with }
  | index a => exact { h with }
  | delay b => exact { h with }
  | sound b => exact { h with }
  | skip a ha =>
    have hb : a.toNat ≤ 0x10FE := by
      simp only [List.mem_cons, List.not_mem_nil, or_false] at ha
      obtain rfl | rfl | rfl := ha <;> bv_omega
    exact { h with pcBound := hb }
  | jump a ha => exact { h with pcBound := ha hi }
  | call nnn hc hsp =>
    subst hc
    have hn : nnn < 4096 := of_decide_eq_true hi
    have hpc : (immAddress nnn).toNat ≤ 0x10FE := by rw [immAddress_toNat hn]; omega
    refine { h with pcBound := hpc, returnAddresses := fun k => ?_ }
    show (s.stack.set s.sp.val s.pc hsp)[k.val].toNat ≤ 0x1000
    rw [Vector.getElem_set]
    split
    · exact hhi
    · exact h.returnAddresses k
  | ret =>
    have hpc := h.returnAddresses ⟨s.sp.val - 1, by have := s.sp.isLt; omega⟩
    exact { h with pcBound := Nat.le_trans hpc (by decide) }
  | store vs hvs => exact { h with memory := Memory.wf_writeAll h.memory hvs }
  | fault code hc =>
    have hne : code ≠ .noFault := by rintro rfl; simp at hc
    exact { h with
      cpuTime := ⟨le_rfl, nofun⟩
      status := ⟨fun _ => hne, nofun⟩
      noFaultZero := fun e => absurd e hne }

/-- The same of an invalid word, logged or not (R216, R224). -/
theorem InvButCpu.invalidOpcode {s : State} (w : Word) (h : InvButCpu s) : InvButCpu (s.invalidOpcode w) := by
  obtain ⟨-, hu⟩ | ⟨-, hu⟩ := invalidOpcode_cases s w
  · rw [hu]
    exact { h with status := ⟨nofun, fun _ => .inr rfl⟩, noFaultZero := nofun }
  · rw [hu]
    exact { h with cpuTime := ⟨le_rfl, nofun⟩, status := ⟨nofun, nofun⟩, noFaultZero := nofun }

/-- And of a fetch fault (R102). -/
theorem InvButCpu.raiseFetch {s : State} (h : InvButCpu s) : InvButCpu s.raiseFetch :=
  { h with cpuTime := ⟨le_rfl, nofun⟩, status := ⟨nofun, nofun⟩, noFaultZero := nofun }

/-- After a fetch, pc is at least 2 and at most 0x1000 (R102, R104). -/
theorem advancePc_pc_mem_of_fetchWord {s : State} {w : Word} (h : s.fetchWord = some w) :
    2 ≤ s.advancePc.pc.toNat ∧ s.advancePc.pc.toNat ≤ 0x1000 := by
  have hpc : s.pc.toNat + 1 ≤ 4095 := by
    by_contra hn
    simp [State.fetchWord, hn] at h
  rw [State.advancePc_pc]
  constructor <;> bv_omega

theorem InvButCpu.step {s t : State} (h : InvButCpu s) (hst : step s = .next t) : InvButCpu t := by
  obtain ⟨-, ⟨-, rfl⟩ | ⟨w, hf, hw⟩⟩ := step_cases hst
  · exact h.raiseFetch.afterCycle
  · obtain ⟨hlo, hhi⟩ := advancePc_pc_mem_of_fetchWord hf
    have hadv : InvButCpu s.advancePc := { h with pcBound := Nat.le_trans hhi (by decide) }
    obtain ⟨_, -, rfl⟩ | ⟨i, u, hd, he, rfl⟩ := hw
    · exact (hadv.invalidOpcode w).afterCycle
    · exact ((effect_of_exec he).invButCpu (decodeWord_wellFormed hd) hadv hlo hhi).afterCycle

/-- A step neither spends nor saves scheduler time, and leaves the clock (R34, R36). -/
theorem step_accCpu_clock {s t : State} (h : step s = .next t) :
    t.accCpu = s.accCpu ∧ t.clockFrequency = s.clockFrequency := by
  obtain ⟨u, rfl, ⟨pc, halted, lastFault, rfl⟩ | ⟨w, i, -, -, hw⟩⟩ := step_frame h
  · exact ⟨afterCycle_accCpu _, afterCycle_clockFrequency _⟩
  · exact ⟨(afterCycle_accCpu u).trans hw.scheduler.1, (afterCycle_clockFrequency u).trans hw.configuration.1⟩

theorem step_instructionPeriod {s t : State} (h : step s = .next t) : t.instructionPeriod = s.instructionPeriod :=
  congrArg (1 / ·) (step_accCpu_clock h).2

/-- Settles O45: the clause on `acc_cpu` rests on `step_accCpu_clock`, the others on `InvButCpu.step`. -/
theorem stepKeepsTheInvariant : Obligations.StepKeepsTheInvariant := by
  intro s t h hst
  have hcpu := (step_accCpu_clock hst).1
  have hh := (step_cases hst).1
  refine (h.butCpu.step hst).inv (hcpu ▸ h.cpuTime.1) fun _ => ?_
  rw [hcpu, step_instructionPeriod hst]
  exact h.cpuTime.2 hh

/-! ## The Frame command -/

/-- The loop of a Frame, with fuel for all the time saved, ends with the invariant whole: each turn spends one period
(R198). -/
theorem frameLoop_inv (n : Nat) {s t : State} (h : InvButCpu s) (h0 : 0 ≤ s.accCpu)
    (hn : s.accCpu < (n + 1) * s.instructionPeriod) (hst : frameLoop n s = .next t) : Inv t := by
  induction n generalizing s with
  | zero =>
    cases hst
    exact h.inv h0 fun _ => by simpa using hn
  | succ n ih =>
    obtain ⟨hlt, hl⟩ | ⟨hle, ⟨u, hu, hl⟩ | ⟨_, -, hl⟩ | ⟨_, -, hl⟩⟩ := frameLoop_succ n s
    · cases hl.symm.trans hst
      exact h.inv h0 fun _ => hlt
    · have hinv : InvButCpu u := InvButCpu.step (s := { s with accCpu := s.accCpu - s.instructionPeriod }) h hu
      have hcpu : u.accCpu = s.accCpu - s.instructionPeriod := (step_accCpu_clock hu).1
      have hper : u.instructionPeriod = s.instructionPeriod := (step_instructionPeriod hu :)
      have hu0 : 0 ≤ u.accCpu := by rw [hcpu]; exact sub_nonneg.mpr hle
      rw [hl] at hst
      split at hst
      next hhalt =>
        cases hst
        exact hinv.inv hu0 fun hrun => absurd (hhalt.symm.trans hrun) nofun
      next =>
        refine ih hinv hu0 ?_ hst
        rw [hcpu, hper]
        push_cast at hn
        linarith
    · exact absurd (hl.symm.trans hst) nofun
    · exact absurd (hl.symm.trans hst) nofun

/-- The ticks due are all of them: less than one period remains beyond (R197). -/
theorem accCpu_lt_ticksDue {s : State} (h : 0 < s.clockFrequency) :
    s.accCpu < (s.ticksDue + 1) * s.instructionPeriod := by
  rw [← div_lt_iff₀ (instructionPeriod_pos h)]
  have hfloor := Int.lt_floor_add_one (s.accCpu / s.instructionPeriod)
  have htoNat : (⌊s.accCpu / s.instructionPeriod⌋ : ℚ) ≤ s.ticksDue := by exact_mod_cast Int.self_le_toNat _
  linarith

/-- A Frame that answers a next state left a halted block alone (R204), or ran the loop on the saved time and a delta
that is not negative (R197, R208). -/
theorem frame_cases {dt : Rat} {s t : State} (h : frame dt s = .next t) :
    (s.halted = true ∧ t = s) ∨
    (s.halted = false ∧ 0 ≤ dt ∧
      frameLoop (State.ticksDue { s with accCpu := s.accCpu + dt }) { s with accCpu := s.accCpu + dt } = .next t) := by
  unfold frame at h
  split at h
  · cases h
  next hdt =>
    split at h
    next hh =>
      cases h
      exact .inl ⟨hh, rfl⟩
    next hh => exact .inr ⟨Bool.eq_false_of_not_eq_true hh, not_lt.mp hdt, h⟩

/-- Settles O47: the loop has fuel for all the time it starts with, and spends it down to less than one period. -/
theorem frameKeepsTheInvariant : Obligations.FrameKeepsTheInvariant := by
  intro s t dt h hst
  obtain ⟨-, rfl⟩ | ⟨-, hdt, hloop⟩ := frame_cases hst
  · exact h
  · exact frameLoop_inv (s := { s with accCpu := s.accCpu + dt }) _ h.butCpu (add_nonneg h.cpuTime.1 hdt)
      (accCpu_lt_ticksDue h.clock) hloop

end Sys2Proof.Machine
end

section
/-! PROOFS. Main memory: what a run of stored bytes reads back as, at once and by the next fetch, and the map that a Reset
command lays out (R53, R60, R61, R68). -/

namespace Sys2Proof.Machine

open Sys2Proof.Claims

/-- Settles O25, by induction on the run: its first byte lies below the rest of it, which the induction hypothesis reads. -/
theorem readGivesTheLastWrite : Obligations.ReadGivesTheLastWrite := by
  intro m a vs b
  induction vs generalizing m a with
  | nil =>
    have hout : ¬ (a ≤ b ∧ b < a + ([] : List Byte).length) := fun hin => Nat.not_lt.mpr hin.1 hin.2
    rw [dif_neg hout]; rfl
  | cons v vs ih =>
    obtain hlt | rfl | hgt := lt_trichotomy b a
    · rw [Memory.read_writeAll_below _ _ _ _ hlt, dif_neg (by omega)]
    · rw [Memory.writeAll, Memory.read_writeAll_below _ _ _ _ b.lt_succ_self]
      simp
    · obtain ⟨k, rfl⟩ : ∃ k, b = a + (k + 1) := Nat.exists_eq_add_of_lt hgt
      have hplace : a + (k + 1) - (a + 1) = k := by omega
      have hrun : a + (k + 1) < a + 1 + vs.length ↔ k < vs.length := by omega
      simp [Memory.writeAll, ih, hplace, hrun]

/-- The byte at a place of a stored run is the byte of the list there (R60). -/
theorem read_writeAll_at (m : Memory) (a k : Nat) (vs : List Byte) (h : k < vs.length) :
    (m.writeAll a vs).read (a + k) = vs[k] := by
  rw [readGivesTheLastWrite, dif_pos (by omega)]
  simp

/-- The statements' `byteAfter` is what a read after the store of a run answers. -/
theorem read_writeAll_eq_byteAfter (m : Memory) (a b : Nat) (vs : List Byte) :
    (m.writeAll a vs).read b = byteAfter m a vs b := by
  unfold byteAfter
  by_cases hin : a ≤ b ∧ b < a + vs.length
  · rw [readGivesTheLastWrite, dif_pos hin, if_pos hin.1, List.getElem?_eq_getElem (by omega), Option.getD_some]
  · rw [readGivesTheLastWrite, dif_neg hin]
    split
    · rw [List.getElem?_eq_none (by omega), Option.getD_none]
    · rfl

/-- A fetch whose two bytes exist reads the memory of that moment (R55, R68). -/
theorem fetchWord_of_le {s : State} (h : s.pc.toNat + 1 ≤ 4095) :
    s.fetchWord = some (wordOfBytes (s.mem.read s.pc.toNat) (s.mem.read (s.pc.toNat + 1))) := if_pos h

/-- A fetch from any address after a run of bytes is stored from I on. -/
theorem fetchWord_setMem_writeAll (s : State) (vs : List Byte) {a : Word} (ha : a.toNat + 1 ≤ 4095) :
    ((s.setMem (s.mem.writeAll (s.ea 0) vs)).setPc a).fetchWord =
      some (wordOfBytes (byteAfter s.mem s.I.toNat vs a.toNat) (byteAfter s.mem s.I.toNat vs (a.toNat + 1))) := by
  rw [fetchWord_of_le ha, State.setPc_mem, State.setPc_pc, State.setMem_mem, read_writeAll_eq_byteAfter,
    read_writeAll_eq_byteAfter, ea_eq, Nat.add_zero]

/-- Settles O26: both instructions pass their address check and store a run from I on. -/
theorem storeIsSeenByTheNextFetch : Obligations.StoreIsSeenByTheNextFetch := fun s x _ ha =>
  ⟨fun h => ⟨_, guardAddress_of_le (.storeRegs x) s _ h, rfl, fetchWord_setMem_writeAll s (s.regsUpTo x) ha⟩,
    fun h => ⟨_, guardAddress_of_le (.ldB x) s _ h, rfl, fetchWord_setMem_writeAll s (digits (s.reg x)) ha⟩⟩

section
variable (fontBase : Fin 433) {program : List Byte} (font : Vector Byte 80)

/-- Font and program both lie inside memory (R61, R62). -/
theorem loadedMemory_wf (h : program.length ≤ 3584) : (loadedMemory fontBase program font).wf = true := by
  have hfont : fontBase.val + font.toList.length ≤ 4096 := by
    rw [Vector.length_toList]; omega
  have hprogram : 512 + program.length ≤ 4096 := by omega
  exact Memory.wf_writeAll (Memory.wf_writeAll Memory.wf_nil hfont) hprogram

/-- The font ends at or below 512, where the program begins, so the program leaves it alone (D3). -/
theorem read_loadedMemory_font (k : Fin 80) :
    (loadedMemory fontBase program font).read (fontBase.val + k.val) = font[k] := by
  have hbelow : fontBase.val + k.val < 512 := by omega
  rw [loadedMemory, Memory.read_writeAll_below _ _ _ _ hbelow, read_writeAll_at _ _ _ _ (by simp)]
  simp

theorem read_loadedMemory_program (j : Fin program.length) :
    (loadedMemory fontBase program font).read (512 + j.val) = program[j] :=
  read_writeAll_at _ _ _ _ j.isLt

theorem read_loadedMemory_elsewhere {a : Nat} (hf : ¬ (fontBase.val ≤ a ∧ a < fontBase.val + 80))
    (hp : ¬ (512 ≤ a ∧ a < 512 + program.length)) : (loadedMemory fontBase program font).read a = 0 := by
  have hfont : ¬ (fontBase.val ≤ a ∧ a < fontBase.val + font.toList.length) := by rwa [Vector.length_toList]
  rw [loadedMemory, readGivesTheLastWrite, dif_neg hp, readGivesTheLastWrite, dif_neg hfont]
  rfl

end

/-- Settles O49: a program that fits leaves `loadedMemory`, whose parts are read one by one. -/
theorem resetMemoryMap : Obligations.ResetMemoryMap := by
  intro s program font h
  rw [resetCommand_of_le s h]
  exact ⟨loadedMemory_wf s.fontBase font h, read_loadedMemory_font s.fontBase font,
    read_loadedMemory_program s.fontBase font, fun _ => read_loadedMemory_elsewhere s.fontBase font⟩

end Sys2Proof.Machine
end

section
/-! PROOFS. What the fields of a word and the encoder's formats say of each other (R76 to R78, R55). -/

namespace Sys2Proof

variable {w : Word} {op nnn nn n : Nat} {x y : Reg}

theorem leading_lt (w : Word) : nibble w 3 < 16 := Nat.mod_lt _ (by decide)

/-- NN is the two low nibbles (R77). -/
theorem fieldNN_toNat (w : Word) : (fieldNN w).toNat = nibble w 1 * 16 + fieldN w := by
  simp only [fieldNN, fieldN, nibble, BitVec.toNat_ofNat]
  omega

/-- The two bytes of a word spell it again (R55). -/
@[simp] theorem wordOfBytes_firstByte_secondByte (w : Word) : wordOfBytes (firstByte w) (secondByte w) = w := by
  apply BitVec.eq_of_toNat_eq
  simp only [wordOfBytes, firstByte, secondByte, BitVec.toNat_ofNat]
  omega

/-! ## The fields of an encoding, format by format -/

theorem encodeA_toNat (hop : op < 16) (hnnn : nnn < 4096) : (encodeA op nnn).toNat = op * 4096 + nnn := by
  rw [encodeA, BitVec.toNat_ofNat]; omega

@[simp] theorem leading_encodeA (hop : op < 16) (hnnn : nnn < 4096) : nibble (encodeA op nnn) 3 = op := by
  rw [nibble, encodeA_toNat hop hnnn]; omega

@[simp] theorem fieldNNN_encodeA (hop : op < 16) (hnnn : nnn < 4096) : fieldNNN (encodeA op nnn) = nnn := by
  rw [fieldNNN, encodeA_toNat hop hnnn]; omega

theorem encodeI_toNat (hop : op < 16) (hnn : nn < 256) :
    (encodeI op x nn).toNat = op * 4096 + x.val * 256 + nn := by
  rw [encodeI, BitVec.toNat_ofNat]; omega

@[simp] theorem leading_encodeI (hop : op < 16) (hnn : nn < 256) : nibble (encodeI op x nn) 3 = op := by
  rw [nibble, encodeI_toNat hop hnn]; omega

@[simp] theorem fieldX_encodeI (hop : op < 16) (hnn : nn < 256) : fieldX (encodeI op x nn) = x := by
  apply Fin.ext
  change (encodeI op x nn).toNat / 16 ^ 2 % 16 = x.val
  rw [encodeI_toNat hop hnn]; omega

@[simp] theorem fieldNN_encodeI (hop : op < 16) (hnn : nn < 256) :
    fieldNN (encodeI op x nn) = BitVec.ofNat 8 nn := by
  have hlow : (op * 4096 + x.val * 256 + nn) % 256 = nn := by omega
  rw [fieldNN, encodeI_toNat hop hnn, hlow]

theorem encodeR_toNat (hop : op < 16) (hn : n < 16) :
    (encodeR op x y n).toNat = op * 4096 + x.val * 256 + y.val * 16 + n := by
  rw [encodeR, BitVec.toNat_ofNat]; omega

@[simp] theorem leading_encodeR (hop : op < 16) (hn : n < 16) : nibble (encodeR op x y n) 3 = op := by
  rw [nibble, encodeR_toNat hop hn]; omega

@[simp] theorem fieldX_encodeR (hop : op < 16) (hn : n < 16) : fieldX (encodeR op x y n) = x := by
  apply Fin.ext
  change (encodeR op x y n).toNat / 16 ^ 2 % 16 = x.val
  rw [encodeR_toNat hop hn]; omega

@[simp] theorem fieldY_encodeR (hop : op < 16) (hn : n < 16) : fieldY (encodeR op x y n) = y := by
  apply Fin.ext
  change (encodeR op x y n).toNat / 16 ^ 1 % 16 = y.val
  rw [encodeR_toNat hop hn]; omega

@[simp] theorem fieldN_encodeR (hop : op < 16) (hn : n < 16) : fieldN (encodeR op x y n) = n := by
  rw [fieldN, nibble, encodeR_toNat hop hn]; omega

/-! ## The encoding of a word's own fields -/

theorem encodeA_fields (hop : nibble w 3 = op) : encodeA op (fieldNNN w) = w := by
  subst hop
  apply BitVec.eq_of_toNat_eq
  simp only [encodeA, nibble, fieldNNN, BitVec.toNat_ofNat]
  omega

theorem encodeI_fields (hop : nibble w 3 = op) (hnn : (fieldNN w).toNat = nn) : encodeI op (fieldX w) nn = w := by
  subst hop hnn
  apply BitVec.eq_of_toNat_eq
  simp only [encodeI, fieldX, regField, fieldNN, nibble, BitVec.toNat_ofNat]
  omega

theorem encodeR_fields (hop : nibble w 3 = op) (hn : fieldN w = n) : encodeR op (fieldX w) (fieldY w) n = w := by
  subst hop hn
  apply BitVec.eq_of_toNat_eq
  simp only [encodeR, fieldX, fieldY, fieldN, regField, nibble, BitVec.toNat_ofNat]
  omega

end Sys2Proof
end

section
/-! PROOFS. Decoder and encoder undo each other: a well-formed instruction comes back from its word, a word from the
instruction it decodes to, and the words that decode to none are those of R82. -/

namespace Sys2Proof

/-- Format by format (R78): the decoder finds the opcode, then the function code, then the operands. -/
theorem decodeWord_encode {i : Instr} (h : WellFormed i = true) : decodeWord (encode i) = .ok i := by
  cases i
  case cls | ret => decide
  case jp nnn | call nnn | ldI nnn | jpV0 nnn =>
    have hnnn : nnn < 4096 := of_decide_eq_true h
    simp [encode, decodeWord, hnnn]
  case drw n =>
    have hn : n < 16 := of_decide_eq_true h
    simp [encode, decodeWord, hn]
  case seImm nn | sneImm nn | ldImm nn | addImm nn | rnd nn => simp [encode, decodeWord, nn.isLt]
  case seReg | sneReg => simp [encode, decodeWord]
  case ldReg | orReg | andReg | xorReg | addReg | subReg | shr | subn | shl => simp [encode, decodeWord, decodeAlu]
  case skp | sknp => simp [encode, decodeWord, decodeKey]
  case waitk | ldVxDT | ldDT | ldST | addI | ldF | ldB | storeRegs | loadRegs => simp [encode, decodeWord, decodeMisc]

/-- Settles O1: the two bytes spell the encoding again, which `decodeWord_encode` decodes. -/
theorem decodeOfEncodeIsTheInstruction : Obligations.DecodeOfEncodeIsTheInstruction := by
  intro i rest h
  simp [encodeBytes, decode, decodeWord_encode h]

section
variable {w : Word} {i : Instr}

theorem encode_of_decodeZ (h : decodeZ w = .ok i) : encode i = w := by
  unfold decodeZ at h
  split at h
  next hw => cases h; exact hw.symm
  next =>
    split at h <;> cases h
    next hw => exact hw.symm

theorem encode_of_decodeAlu (hop : nibble w 3 = 0x8) (h : decodeAlu w = .ok i) : encode i = w := by
  unfold decodeAlu at h
  split at h <;> cases h <;> exact encodeR_fields hop ‹_›

theorem encode_of_decodeKey (hop : nibble w 3 = 0xE) (h : decodeKey w = .ok i) : encode i = w := by
  unfold decodeKey at h
  split at h <;> cases h <;> exact encodeI_fields hop ‹_›

theorem encode_of_decodeMisc (hop : nibble w 3 = 0xF) (h : decodeMisc w = .ok i) : encode i = w := by
  unfold decodeMisc at h
  split at h <;> cases h <;> exact encodeI_fields hop ‹_›

/-- Each arm keeps every field that its instruction's format encodes. Case `h_k` is that of leading nibble k − 1. -/
theorem encode_of_decodeWord (h : decodeWord w = .ok i) : encode i = w := by
  unfold decodeWord at h
  split at h
  case h_1 => exact encode_of_decodeZ h
  case h_9 hop => exact encode_of_decodeAlu hop h
  case h_15 hop => exact encode_of_decodeKey hop h
  case h_16 hop => exact encode_of_decodeMisc hop h
  case h_2 hop | h_3 hop | h_11 hop | h_12 hop => cases h; exact encodeA_fields hop
  case h_4 hop | h_5 hop | h_7 hop | h_8 hop | h_13 hop => cases h; exact encodeI_fields hop rfl
  case h_6 hop | h_10 hop =>
    split at h <;> cases h
    next hN => exact encodeR_fields hop hN
  case h_14 hop => cases h; exact encodeR_fields hop rfl
  case h_17 => cases h

end

/-- Settles O2: no arm of the decoder drops a bit of its word. -/
theorem encodeOfDecodeIsTheWord : Obligations.EncodeOfDecodeIsTheWord :=
  fun _ _ h => ⟨encode_of_decodeWord h, Machine.decodeWord_wellFormed h⟩

/-! ## The words that are rejected (R82) -/

section
variable {w : Word}

theorem decodeZ_invalid_iff : decodeZ w = .error (.invalidOpcode w) ↔ w ≠ 0x00E0#16 ∧ w ≠ 0x00EE#16 := by
  unfold decodeZ
  split
  next hw => simp [hw]
  next => split <;> simp [*]

theorem decodeAlu_invalid_iff :
    decodeAlu w = .error (.invalidOpcode w) ↔ fieldN w ∈ [0x8, 0x9, 0xA, 0xB, 0xC, 0xD, 0xF] := by
  have hN : fieldN w < 16 := Nat.mod_lt _ (by decide)
  unfold decodeAlu
  interval_cases fieldN w <;> simp

theorem decodeKey_invalid_iff :
    decodeKey w = .error (.invalidOpcode w) ↔ (fieldNN w).toNat ∉ [0x9E, 0xA1] := by
  unfold decodeKey
  split
  case h_3 => simp_all
  all_goals simp [*]

theorem decodeMisc_invalid_iff :
    decodeMisc w = .error (.invalidOpcode w) ↔
      (fieldNN w).toNat ∉ [0x07, 0x0A, 0x15, 0x18, 0x1E, 0x29, 0x33, 0x55, 0x65] := by
  unfold decodeMisc
  split
  case h_10 => simp_all
  all_goals simp [*]

end

/-- Settles O5, by the leading nibble: each value leaves one clause of the list, which says what its arm rejects. -/
theorem invalidWordsAreTheListedOnes : Obligations.InvalidWordsAreTheListedOnes := by
  intro w
  have hlt := leading_lt w
  interval_cases hop : nibble w 3 <;>
    simp [decodeWord, hop, decodeZ_invalid_iff, decodeAlu_invalid_iff, decodeKey_invalid_iff, decodeMisc_invalid_iff]

/-- Settles O6: seven words, decoded. -/
theorem workedDecodes : Obligations.WorkedDecodes := by
  unfold Obligations.WorkedDecodes
  decide

end Sys2Proof
end

section
/-! PROOFS. The decoder and the rows of the opcode map (R80, R81, R105). A row's mask keeps whole nibbles, so a word that
matches has the row's own nibbles there, and the decoder looks at no others to choose its arm. -/

namespace Sys2Proof

theorem nibble_and (w mask : Word) (k : Nat) : nibble (w &&& mask) k = nibble w k &&& nibble mask k := by
  have hpow : (16 : Nat) ^ k = 2 ^ (4 * k) := by rw [Nat.pow_mul]
  simp only [nibble, hpow, BitVec.toNat_and, Nat.and_div_two_pow]
  exact Nat.and_mod_two_pow (n := 4)

section
variable {w mask pattern : Word}

/-- A nibble that the mask keeps is the pattern's. -/
theorem nibble_of_masked (h : w &&& mask = pattern) (k : Nat) (hk : nibble mask k = 15) :
    nibble w k = nibble pattern k := by
  rw [← h, nibble_and, hk, Nat.and_two_pow_sub_one_eq_mod _ 4, nibble, Nat.mod_mod]

/-- So is the function code NN, when the mask keeps both its nibbles. -/
theorem fieldNN_of_masked (h : w &&& mask = pattern) (h1 : nibble mask 1 = 15) (h0 : nibble mask 0 = 15) :
    (fieldNN w).toNat = (fieldNN pattern).toNat := by
  rw [fieldNN_toNat, fieldNN_toNat, fieldN, fieldN, nibble_of_masked h 1 h1, nibble_of_masked h 0 h0]

end

/-- An instruction's word matches its own row: the family of Laws/PerInstr as one lemma. -/
theorem matchesRow_encode : ∀ i : Instr, WellFormed i = true → matchesRow (encode i) (rowIndex i) = true
  | .cls => Laws.EncodesItsRow.cls
  | .ret => Laws.EncodesItsRow.ret
  | .jp nnn => Laws.EncodesItsRow.jp nnn
  | .call nnn => Laws.EncodesItsRow.call nnn
  | .seImm x nn => Laws.EncodesItsRow.seImm x nn
  | .sneImm x nn => Laws.EncodesItsRow.sneImm x nn
  | .seReg x y => Laws.EncodesItsRow.seReg x y
  | .sneReg x y => Laws.EncodesItsRow.sneReg x y
  | .ldImm x nn => Laws.EncodesItsRow.ldImm x nn
  | .addImm x nn => Laws.EncodesItsRow.addImm x nn
  | .ldReg x y => Laws.EncodesItsRow.ldReg x y
  | .orReg x y => Laws.EncodesItsRow.orReg x y
  | .andReg x y => Laws.EncodesItsRow.andReg x y
  | .xorReg x y => Laws.EncodesItsRow.xorReg x y
  | .addReg x y => Laws.EncodesItsRow.addReg x y
  | .subReg x y => Laws.EncodesItsRow.subReg x y
  | .shr x y => Laws.EncodesItsRow.shr x y
  | .subn x y => Laws.EncodesItsRow.subn x y
  | .shl x y => Laws.EncodesItsRow.shl x y
  | .ldI nnn => Laws.EncodesItsRow.ldI nnn
  | .jpV0 nnn => Laws.EncodesItsRow.jpV0 nnn
  | .rnd x nn => Laws.EncodesItsRow.rnd x nn
  | .drw x y n => Laws.EncodesItsRow.drw x y n
  | .skp x => Laws.EncodesItsRow.skp x
  | .sknp x => Laws.EncodesItsRow.sknp x
  | .waitk x => Laws.EncodesItsRow.waitk x
  | .ldVxDT x => Laws.EncodesItsRow.ldVxDT x
  | .ldDT x => Laws.EncodesItsRow.ldDT x
  | .ldST x => Laws.EncodesItsRow.ldST x
  | .addI x => Laws.EncodesItsRow.addI x
  | .ldF x => Laws.EncodesItsRow.ldF x
  | .ldB x => Laws.EncodesItsRow.ldB x
  | .storeRegs x => Laws.EncodesItsRow.storeRegs x
  | .loadRegs x => Laws.EncodesItsRow.loadRegs x

/-- The rows by what their masks keep: all of the word, the opcode alone, the opcode with N, the opcode with NN (R80). -/
theorem decodeWord_of_matchesRow {w : Word} :
    ∀ k, matchesRow w k = true → ∃ i, decodeWord w = .ok i ∧ rowIndex i = k
  | 0, h | 1, h => by
    have hw : w = _ := (BitVec.and_allOnes (x := w)).symm.trans (eq_of_beq h)
    rw [hw]
    exact ⟨_, rfl, rfl⟩
  | 2, h | 3, h | 4, h | 5, h | 8, h | 9, h | 19, h | 20, h | 21, h | 22, h => by
    rw [decodeWord, nibble_of_masked (eq_of_beq h) 3 rfl]
    exact ⟨_, rfl, rfl⟩
  | 6, h | 7, h => by
    have hN : fieldN w = _ := nibble_of_masked (eq_of_beq h) 0 rfl
    rw [decodeWord, nibble_of_masked (eq_of_beq h) 3 rfl]
    exact ⟨_, if_pos hN, rfl⟩
  | 10, h | 11, h | 12, h | 13, h | 14, h | 15, h | 16, h | 17, h | 18, h => by
    have hN : fieldN w = _ := nibble_of_masked (eq_of_beq h) 0 rfl
    rw [decodeWord, nibble_of_masked (eq_of_beq h) 3 rfl]
    change ∃ i, decodeAlu w = .ok i ∧ _
    rw [decodeAlu, hN]
    exact ⟨_, rfl, rfl⟩
  | 23, h | 24, h => by
    rw [decodeWord, nibble_of_masked (eq_of_beq h) 3 rfl]
    change ∃ i, decodeKey w = .ok i ∧ _
    rw [decodeKey, fieldNN_of_masked (eq_of_beq h) rfl rfl]
    exact ⟨_, rfl, rfl⟩
  | 25, h | 26, h | 27, h | 28, h | 29, h | 30, h | 31, h | 32, h | 33, h => by
    rw [decodeWord, nibble_of_masked (eq_of_beq h) 3 rfl]
    change ∃ i, decodeMisc w = .ok i ∧ _
    rw [decodeMisc, fieldNN_of_masked (eq_of_beq h) rfl rfl]
    exact ⟨_, rfl, rfl⟩
  | _ + 34, h => nomatch h

/-- Settles O4: a decoded word is the encoding of its instruction, which matches that instruction's row; the other way is
`decodeWord_of_matchesRow`. -/
theorem decodesToTheRowThatMatches : Obligations.DecodesToTheRowThatMatches := by
  refine fun w => ⟨fun i h => ?_, decodeWord_of_matchesRow⟩
  obtain ⟨rfl, hi⟩ := encodeOfDecodeIsTheWord w i h
  exact matchesRow_encode i hi

/-- Settles O3: both rows are that of the one instruction the word decodes to. -/
theorem opcodeRowsAreDisjoint : Obligations.OpcodeRowsAreDisjoint := by
  intro w j k hj hk
  obtain ⟨i, hi, rfl⟩ := decodeWord_of_matchesRow j hj
  obtain ⟨i', hi', rfl⟩ := decodeWord_of_matchesRow k hk
  rw [Except.ok.inj (hi.symm.trans hi')]

end Sys2Proof
end

section
/-! PROOFS. What every instruction lists as written, and which inputs it looks at (R106, R108, R109). -/

namespace Sys2Proof.Machine

open Sys2Proof.Claims

/-- Settles O34: `exec` answers one of the shapes of `Effect`, each of which has the frame of its rule or is a fault. -/
theorem instructionsWriteOnlyWhatTheirRulesList : Obligations.InstructionsWriteOnlyWhatTheirRulesList := by
  intro i s
  obtain ⟨t, ht, he⟩ := exec_effect s i
  exact ⟨t, ht, he.onlyWrites_or_faulted⟩

/-- The state with other samples lined up. -/
def State.setFeed (s : State) (feed : List Sample) : State := { s with feed := feed }

section
variable (s : State) (feed : List Sample)

/-- No sprite row depends on the samples. -/
theorem blitRows_setFeed (x0 y0 n : Nat) (p : Framebuffer × Bool) :
    (s.setFeed feed).blitRows x0 y0 n p = s.blitRows x0 y0 n p := by
  induction n with
  | zero => rfl
  | succ n ih =>
    rw [State.blitRows, State.blitRows, ih]
    rfl

/-- A skip, taken or not, leaves the samples alone. -/
theorem skipIf_setFeed (p : Prop) [Decidable p] :
    (if p then (s.setFeed feed).skip else s.setFeed feed) = (if p then s.skip else s).setFeed feed := by
  split <;> rfl

variable {s feed}

/-- A checked access faults or goes through whatever the samples. -/
theorem guardAddress_setFeed (i : Instr) (last : Nat) {t u : State} (hu : u = t.setFeed feed) :
    guardAddress i last (s.setFeed feed) u = onNext (·.setFeed feed) (guardAddress i last s t) := by
  subst hu
  unfold guardAddress
  split <;> rfl

/-- A key instruction looks at nothing of the samples but the keys of the next one. -/
theorem guardKey_setFeed (i : Instr) (x : Reg) {f g : Bool → State} (hkey : (s.setFeed feed).sample.key = s.sample.key)
    (hfg : ∀ down, f down = (g down).setFeed feed) :
    guardKey i x (s.setFeed feed) f = onNext (·.setFeed feed) (guardKey i x s g) := by
  obtain h | h := Nat.lt_or_ge s.V[x].toNat 16
  · rw [guardKey_of_lt i x s g h, guardKey_of_lt i x (s.setFeed feed) f h, hfg, hkey]
    rfl
  · rw [guardKey_of_ge i x s g h, guardKey_of_ge i x (s.setFeed feed) f h]
    rfl

/-- Other samples change nothing of what an instruction does, where the next one agrees on what the instruction looks
at (R106). -/
theorem exec_setFeed {i : Instr} (hkey : readsKeys i = true → (s.setFeed feed).sample.key = s.sample.key)
    (hrnd : readsRandom i = true → (s.setFeed feed).sample.rnd = s.sample.rnd) :
    exec i (s.setFeed feed) = onNext (·.setFeed feed) (exec i s) := by
  cases i <;> simp only [exec]
  case ret =>
    rw [execRet, execRet, apply_ite (onNext _)]
    rfl
  case call =>
    rw [execCall, execCall, apply_dite (onNext _)]
    rfl
  case seImm | sneImm | seReg | sneReg => exact congrArg _ (skipIf_setFeed s feed _)
  case rnd =>
    rw [execRnd, hrnd rfl]
    rfl
  case drw x y n =>
    have hblit : (s.setFeed feed).blit x y n = s.blit x y n := blitRows_setFeed s feed _ _ n _
    rw [execDrw, hblit]
    exact guardAddress_setFeed _ _ rfl
  case ldB | storeRegs | loadRegs => exact guardAddress_setFeed _ _ rfl
  case skp => exact guardKey_setFeed _ _ (hkey rfl) fun _ => skipIf_setFeed s feed _
  case sknp | waitk => exact guardKey_setFeed _ _ (hkey rfl) fun down => by cases down <;> rfl
  all_goals rfl

end

/-- Settles O36: the two samples differ only in what the instruction does not look at. -/
theorem onlyKeyAndRandomInstructionsReadInputs : Obligations.OnlyKeyAndRandomInstructionsReadInputs := by
  intro i s key key' r r' rest
  constructor
  · intro hi
    exact exec_setFeed (s := s.setFeed (⟨key, r⟩ :: rest)) (fun h => absurd (hi.symm.trans h) nofun) fun _ => rfl
  · intro hi
    exact exec_setFeed (s := s.setFeed (⟨key, r⟩ :: rest)) (fun _ => rfl) fun h => absurd (hi.symm.trans h) nofun

end Sys2Proof.Machine
end

section
/-! PROOFS. The step by the outcome of its fetch, and the halted block (R100 to R105, R198, R204). -/

namespace Sys2Proof.Machine

open Sys2Proof.Claims

section
variable {s : State}

/-- A block that is not halted runs one cycle and the scheduler's part (R198). -/
theorem step_of_running (h : s.halted = false) : step s = onNext State.afterCycle s.cycle := by
  rw [step, h]
  cases s.cycle <;> rfl

/-- A fetched word that decodes is executed with pc advanced (R104, R105). -/
theorem cycle_of_decodeWord {w : Word} {i : Instr} (hf : s.fetchWord = some w) (hd : decodeWord w = .ok i) :
    s.cycle = exec i s.advancePc := by
  simp [State.cycle, hf, hd]

/-- A fetch whose second byte lies above 4095 has no word, and faults (R102). -/
theorem cycle_of_pc_ge (h : s.pc.toNat ≥ 4095) : s.cycle = .next s.raiseFetch := by
  have hf : s.fetchWord = none := if_neg (show ¬ s.pc.toNat + 1 ≤ 4095 by omega)
  simp [State.cycle, hf]

end

/-- Settles O38: `afterCycle` is the accrual unless the cycle halted the block, then the next sample. -/
theorem stepRunsTheDecodedInstruction : Obligations.StepRunsTheDecodedInstruction := by
  intro s i hh hpc hd
  rw [step_of_running hh, cycle_of_decodeWord (fetchWord_of_le hpc) hd]
  rfl

/-- Settles O39: the fetch fault halts the block, so nothing accrues after it. -/
theorem fetchOffMemoryFaults : Obligations.FetchOffMemoryFaults := by
  intro s hh hpc
  rw [step_of_running hh, cycle_of_pc_ge hpc, onNext, afterCycle_of_halted s.raiseFetch_halted]
  rfl

/-- Settles O42: step and Frame test `halted` before anything else, a Frame after the sign of its delta. -/
theorem haltedBlockDoesNothing : Obligations.HaltedBlockDoesNothing :=
  fun _ _ h => ⟨if_pos h, fun hdt => (if_neg (not_lt.mpr hdt)).trans (if_pos h)⟩

end Sys2Proof.Machine
end

section
/-! PROOFS. The control transfers: what each does to pc and to the stack, and that it touches nothing else
(R115 to R124). -/

namespace Sys2Proof.Machine

open Sys2Proof.Claims

section
variable (s : State)

/-- Loading pc changes nothing else (R116, R122). -/
theorem onlyWrites_setPc (a : Word) : OnlyWrites { pc := true } s (s.setPc a) :=
  { onlyWrites_refl { pc := true } s with pc := nofun }

/-! ## The jumps -/

theorem exec_jp (nnn : Nat) : exec (.jp nnn) s = .next (s.setPc (immAddress nnn)) := rfl

theorem exec_jpV0 (nnn : Nat) : exec (.jpV0 nnn) s = .next (s.setPc (s.jumpV0Target nnn)) := rfl

/-! ## Call and return, by whether the stack has room or an entry -/

theorem exec_call_of_lt (nnn : Nat) (h : s.sp.val < 128) :
    exec (.call nnn) s = .next ((s.push h).setPc (immAddress nnn)) := dif_pos h

theorem exec_call_of_full (nnn : Nat) (h : s.sp.val = 128) :
    exec (.call nnn) s = .next (faulted s .stackOverflow (.call nnn)) := dif_neg h.not_lt

theorem exec_ret_of_pos (h : 0 < s.sp.val) : exec .ret s = .next s.popPc := if_neg h.ne'

theorem exec_ret_of_empty (h : s.sp.val = 0) : exec .ret s = .next (faulted s .stackUnderflow .ret) := if_pos h

/-- The entry pushed is the present pc. -/
theorem push_stack_top (h : s.sp.val < 128) : (s.push h).stack[s.sp.val] = s.pc := by simp

/-- A push leaves every other entry of the stack as it was. -/
theorem push_stack_of_ne (h : s.sp.val < 128) (k : Fin 128) (hk : k.val ≠ s.sp.val) :
    (s.push h).stack[k] = s.stack[k] := by simp [Ne.symm hk]

theorem onlyWrites_push_setPc (h : s.sp.val < 128) (a : Word) :
    OnlyWrites { pc := true, stack := true } s ((s.push h).setPc a) :=
  { onlyWrites_refl { pc := true, stack := true } s with pc := nofun, stack := nofun }

theorem onlyWrites_popPc : OnlyWrites { pc := true, stack := true } s s.popPc :=
  { onlyWrites_refl { pc := true, stack := true } s with pc := nofun, stack := nofun }

end

/-! ## The skips -/

section
variable {s : State} {i : Instr} {p : Prop} [Decidable p]

/-- An instruction that skips if `p` moves pc exactly then, and nothing else (R123). -/
theorem skips_if (h : exec i s = .next (if p then s.skip else s)) :
    ∃ t, exec i s = .next t ∧ t.pc = (if p then s.pc + 2 else s.pc) ∧ OnlyWrites { pc := true } s t := by
  refine ⟨_, h, apply_ite State.pc p s.skip s, ?_⟩
  split
  · exact onlyWrites_setPc s (s.pc + 2)
  · exact onlyWrites_refl _ s

/-- The same for one that skips unless `p`. -/
theorem skips_unless (h : exec i s = .next (if ¬ p then s.skip else s)) :
    ∃ t, exec i s = .next t ∧ t.pc = (if p then s.pc else s.pc + 2) ∧ OnlyWrites { pc := true } s t := by
  simpa only [ite_not] using skips_if h

end

/-! ## The statements -/

/-- Settles O7: a 12-bit NNN survives its extension to the 16 bits of pc. -/
theorem jumpSetsPc : Obligations.JumpSetsPc := fun s nnn h =>
  ⟨encodeA_toNat (by decide) h, _, exec_jp s nnn, immAddress_toNat h, onlyWrites_setPc s _⟩

/-- Settles O8: V0 + NNN is below 65536, so pc holds the whole sum. -/
theorem jumpV0SetsPcToTheSum : Obligations.JumpV0SetsPcToTheSum := fun s nnn h =>
  ⟨encodeA_toNat (by decide) h, _, exec_jpV0 s nnn, jumpV0Target_toNat s h, onlyWrites_setPc s _⟩

/-- Settles O9, by whether the stack has room. -/
theorem callPushesOrOverflows : Obligations.CallPushesOrOverflows := fun s nnn hnnn =>
  ⟨fun h => ⟨_, exec_call_of_lt s nnn h, immAddress_toNat hnnn, rfl, push_stack_top s h, push_stack_of_ne s h,
    onlyWrites_push_setPc s h _⟩, exec_call_of_full s nnn⟩

/-- Settles O10, by whether the stack has an entry. -/
theorem returnPopsOrUnderflows : Obligations.ReturnPopsOrUnderflows := fun s =>
  ⟨fun h => ⟨_, exec_ret_of_pos s h, rfl, rfl, rfl, onlyWrites_popPc s⟩, exec_ret_of_empty s⟩

/-- Settles O11: the push leaves sp positive, so the RET pops what the CALL pushed. Room includes sp = 127, by the
capacity of 128 (D6). -/
theorem callThenReturnComesBack : Obligations.CallThenReturnComesBack := by
  intro s nnn h
  have hpos : 0 < ((s.push h).setPc (immAddress nnn)).advancePc.sp.val := Nat.succ_pos s.sp.val
  exact ⟨_, _, exec_call_of_lt s nnn h, exec_ret_of_pos _ hpos, push_stack_top s h, rfl,
    fun k hk => push_stack_of_ne s h k hk.ne⟩

/-- Settles O12: SE skips if Vx = NN, SNE unless. -/
theorem skipsOnImmediate : Obligations.SkipsOnImmediate := fun s x nn =>
  ⟨encodeI_toNat (by decide) nn.isLt, encodeI_toNat (by decide) nn.isLt,
    skips_if (p := s.V[x] = nn) rfl, skips_unless (p := s.V[x] = nn) rfl⟩

/-- Settles O13: SE skips if Vx = Vy, SNE unless. -/
theorem skipsOnRegisters : Obligations.SkipsOnRegisters := fun s x y =>
  ⟨encodeR_toNat (by decide) (by decide), encodeR_toNat (by decide) (by decide),
    skips_if (p := s.V[x] = s.V[y]) rfl, skips_unless (p := s.V[x] = s.V[y]) rfl⟩

end Sys2Proof.Machine
end

section
/-! PROOFS. Register loads, arithmetic and logic: what each leaves in Vx and in VF, and that it touches nothing else
(R130 to R146). -/

namespace Sys2Proof.Machine

open Sys2Proof.Claims

/-! ## One register written, or a result and then its flag -/

section
variable (s : State) (x : Reg) (b : Byte) (c : Bool)

theorem V_setReg_same : (s.setReg x b).V[x] = b := (V_setReg s x x b).trans (if_pos rfl)

theorem onlyWrites_setReg : OnlyWrites { regs := [x] } s (s.setReg x b) :=
  { onlyWrites_refl { regs := [x] } s with
    regs := fun r hr => (V_setReg s x r b).trans (if_neg (List.ne_of_not_mem_cons hr)) }

theorem V_setFlagged_flag : (s.setFlagged x b c).V[VF] = flagByte c := (V_setFlagged s x VF b c).trans (if_pos rfl)

variable {x} in
theorem V_setFlagged_result (hx : x ≠ VF) : (s.setFlagged x b c).V[x] = b := by
  rw [V_setFlagged, if_neg hx, if_pos rfl]

theorem onlyWrites_setFlagged : OnlyWrites { regs := [x, VF] } s (s.setFlagged x b c) :=
  { onlyWrites_refl { regs := [x, VF] } s with
    regs := fun r hr => by
      obtain ⟨hrx, hrF⟩ : r ≠ x ∧ r ≠ VF := by simpa using hr
      rw [V_setFlagged, if_neg hrF, if_neg hrx] }

end

/-- The model's flag as the statements write it: by the condition under which it is set. -/
theorem flagByte_eq_bit {c : Bool} {p : Prop} [Decidable p] (h : c = true ↔ p) : flagByte c = bit p := by
  simp only [flagByte, bit, h]

/-- An instruction that writes a result and then its flag leaves the flag in VF whatever its destination, and the result
in any other destination (R144). -/
theorem sets_result_and_flag {s : State} {i : Instr} {x : Reg} {b : Byte} {c : Bool} {n : Nat} {p : Prop} [Decidable p]
    (h : exec i s = .next (s.setFlagged x b c)) (hb : b.toNat = n) (hc : c = true ↔ p) :
    ∃ t, exec i s = .next t ∧ (x ≠ VF → t.V[x].toNat = n) ∧ t.V[VF] = bit p ∧ OnlyWrites { regs := [x, VF] } s t :=
  ⟨_, h, fun hx => by rw [V_setFlagged_result s b c hx, hb],
    (V_setFlagged_flag s x b c).trans (flagByte_eq_bit hc), onlyWrites_setFlagged s x b c⟩

/-! ## Results and flags as numbers -/

section
variable (a b : Byte)

/-- The difference of bytes, written so that no step of it leaves the naturals (R137, R139). -/
theorem sub_toNat_byte : (a - b).toNat = (a.toNat + 256 - b.toNat) % 256 := by
  have hb := b.isLt
  rw [BitVec.toNat_sub]
  omega

theorem shiftRight_one_toNat_byte : (a >>> 1).toNat = a.toNat / 2 := Nat.shiftRight_one a.toNat

theorem shiftLeft_one_toNat_byte : (a <<< 1).toNat = a.toNat * 2 % 256 := by
  rw [BitVec.toNat_shiftLeft, Nat.shiftLeft_eq]

theorem carryOut_iff : carryOut a b = true ↔ a.toNat + b.toNat > 255 := decide_eq_true_iff

theorem notBorrow_iff : notBorrow a b = true ↔ a.toNat ≥ b.toNat := decide_eq_true_iff

theorem lowBit_iff : lowBit a = true ↔ a.toNat % 2 = 1 := by
  rw [lowBit, BitVec.getLsbD, Nat.testBit_zero, decide_eq_true_iff]

/-- Bit 7 is the sign bit of a byte, set from 128 on (R140). -/
theorem highBit_iff : highBit a = true ↔ a.toNat ≥ 128 := by
  have hmsb : highBit a = a.msb := (BitVec.msb_eq_getLsbD_last a).symm
  rw [hmsb, BitVec.msb_eq_decide, decide_eq_true_iff]

end

/-! ## The statements -/

/-- Settles O14: the sum of bytes is taken modulo 256, and only Vx is written. -/
theorem loadAndAddImmediate : Obligations.LoadAndAddImmediate := fun s x nn =>
  ⟨encodeI_toNat (by decide) nn.isLt, encodeI_toNat (by decide) nn.isLt,
    ⟨_, rfl, V_setReg_same s x _, onlyWrites_setReg s x _⟩,
    ⟨_, rfl, by rw [V_setReg_same, BitVec.toNat_add, reg_eq], onlyWrites_setReg s x _⟩⟩

/-- Settles O15: the operations on bytes act bit by bit. -/
theorem moveAndLogic : Obligations.MoveAndLogic := fun s x y =>
  ⟨⟨_, rfl, V_setReg_same s x _, onlyWrites_setReg s x _⟩,
    ⟨_, rfl, fun k => by rw [V_setReg_same, BitVec.getLsbD_or, reg_eq, reg_eq], onlyWrites_setReg s x _⟩,
    ⟨_, rfl, fun k => by rw [V_setReg_same, BitVec.getLsbD_and, reg_eq, reg_eq], onlyWrites_setReg s x _⟩,
    ⟨_, rfl, fun k => by rw [V_setReg_same, BitVec.getLsbD_xor, reg_eq, reg_eq], onlyWrites_setReg s x _⟩⟩

/-- Settles O16, from the old operands: the flag is written last. -/
theorem addSetsCarry : Obligations.AddSetsCarry := fun _ _ _ =>
  sets_result_and_flag rfl (BitVec.toNat_add _ _) (carryOut_iff _ _)

/-- Settles O17: SUBN is SUB with its operands exchanged. -/
theorem subtractSetsNotBorrow : Obligations.SubtractSetsNotBorrow := fun _ _ _ =>
  ⟨sets_result_and_flag rfl (sub_toNat_byte _ _) (notBorrow_iff _ _),
    sets_result_and_flag rfl (sub_toNat_byte _ _) (notBorrow_iff _ _)⟩

/-- Settles O18: neither result nor flag depends on Y (D7). -/
theorem shiftsSetTheBitShiftedOut : Obligations.ShiftsSetTheBitShiftedOut := fun _ _ _ =>
  ⟨sets_result_and_flag rfl (shiftRight_one_toNat_byte _) (lowBit_iff _),
    sets_result_and_flag rfl (shiftLeft_one_toNat_byte _) (highBit_iff _)⟩

/-- Settles O19: a bit of Vx is that bit of NN and of the draw; the draw is the lined-up one if there is one, and a bit
that NN has at 0 does not depend on it. -/
theorem randomIsMaskedByNN : Obligations.RandomIsMaskedByNN := by
  intro s x nn
  have hbit (k : Nat) : (s.setReg x (nn &&& s.sample.rnd)).V[x].getLsbD k = (nn.getLsbD k && s.sample.rnd.getLsbD k) := by
    rw [V_setReg_same, BitVec.getLsbD_and]
  refine ⟨_, rfl, fun key r rest hfeed k => ?_, fun k hk => ?_, onlyWrites_setReg s x _⟩
  · rw [hbit, sample_of_feed hfeed]
  · rw [hbit, hk, Bool.false_and]

end Sys2Proof.Machine
end

section
/-! PROOFS. The index register's loads and sums, and the loads and stores of a run of bytes from I on: what each leaves
in I, in memory and in the registers, and that a run with an address above 4095 changes nothing (R150 to R157). -/

namespace Sys2Proof.Machine

open Sys2Proof.Claims

/-- An instruction that checks its highest address completes when that address exists, and else faults with no effect
(R54, R222). -/
theorem completes_or_faults {s t : State} {i : Instr} {last : Nat} {P : State → Prop}
    (h : exec i s = guardAddress i last s t) (ht : P t) :
    (last ≤ 4095 → ∃ u, exec i s = .next u ∧ P u) ∧
      (last > 4095 → exec i s = .next (faulted s .outOfBoundsAccess i)) :=
  ⟨fun hle => ⟨t, h.trans (guardAddress_of_le i s t hle), ht⟩, fun hgt => h.trans (guardAddress_of_gt i s t hgt)⟩

section
variable (s : State)

theorem onlyWrites_setI (a : Word) : OnlyWrites { index := true } s (s.setI a) :=
  { onlyWrites_refl { index := true } s with index := nofun }

/-! ## A run of bytes stored from I on -/

section
variable (vs : List Byte)

/-- Each byte of the run reads back at the effective address of its place (R60, R157). -/
theorem read_ea_setMem_writeAll {k : Nat} (h : k < vs.length) :
    (s.setMem (s.mem.writeAll (s.ea 0) vs)).mem.read (s.ea k) = vs[k] := by
  have hea : s.ea k = s.ea 0 + k := rfl
  rw [State.setMem_mem, hea, read_writeAll_at s.mem (s.ea 0) k vs h]

theorem onlyWrites_setMem_writeAll :
    OnlyWrites { bytes := bytesFrom (s.ea 0) vs.length } s (s.setMem (s.mem.writeAll (s.ea 0) vs)) :=
  { onlyWrites_refl { bytes := bytesFrom (s.ea 0) vs.length } s with
    bytes := fun a ha => read_writeAll_of_notMem s.mem (s.ea 0) a vs ha }

end

/-! ## Registers loaded from a run of bytes -/

theorem onlyWrites_loadedRegs (x : Reg) :
    OnlyWrites { regs := (List.finRange 16).filter (fun r => decide (r ≤ x)) } s { s with V := s.loadedRegs x } :=
  { onlyWrites_refl { regs := (List.finRange 16).filter (fun r => decide (r ≤ x)) } s with
    regs := fun r hr => by
      have hgt : ¬ r ≤ x := by simpa using hr
      exact (loadedRegs_getElem s x r).trans (if_neg hgt) }

end

/-! ## The decimal digits of a byte (R153) -/

section
variable (b : Byte)

theorem digits_hundreds_toNat : (digits b)[0].toNat = b.toNat / 100 :=
  Nat.mod_eq_of_lt ((Nat.div_le_self _ _).trans_lt b.isLt)

theorem digits_tens_toNat : (digits b)[1].toNat = b.toNat / 10 % 10 :=
  Nat.mod_eq_of_lt ((Nat.mod_lt _ (by decide)).trans (by decide))

theorem digits_ones_toNat : (digits b)[2].toNat = b.toNat % 10 :=
  Nat.mod_eq_of_lt ((Nat.mod_lt _ (by decide)).trans (by decide))

end

/-! ## The statements -/

/-- Settles O20: a 12-bit NNN survives its extension to the 16 bits of I, and the sum wraps at 65536. -/
theorem indexLoadsAndAdds : Obligations.IndexLoadsAndAdds := by
  intro s x nnn h
  have haddI : (encode (.addI x)).toNat = 0xF01E + x.val * 256 := by
    rw [encode, encodeI_toNat (by decide) (by decide)]
    omega
  exact ⟨encodeA_toNat (by decide) h, haddI, ⟨_, rfl, immAddress_toNat h, onlyWrites_setI s _⟩,
    ⟨_, rfl, indexPlus_toNat s x, onlyWrites_setI s _⟩⟩

/-- Settles O21: FONT_BASE + 5 Vx is below 65536, so I holds the whole sum. -/
theorem fontAddress : Obligations.FontAddress := fun s x =>
  ⟨_, rfl, glyphAddress_toNat s x, onlyWrites_setI s _⟩

/-- Settles O22: the run stored is the three digits. -/
theorem decimalDigitsStored : Obligations.DecimalDigitsStored := by
  intro s x
  have hread (k : Nat) (h : k < 3) := read_ea_setMem_writeAll s (digits (s.reg x)) h
  exact completes_or_faults rfl
    ⟨by rw [hread 0 (by decide), digits_hundreds_toNat, reg_eq], by rw [hread 1 (by decide), digits_tens_toNat, reg_eq],
      by rw [hread 2 (by decide), digits_ones_toNat, reg_eq], onlyWrites_setMem_writeAll s (digits (s.reg x))⟩

/-- Settles O23: the run stored is V0 to Vx, whose k-th byte is register k. -/
theorem registersStored : Obligations.RegistersStored := by
  intro s x
  refine completes_or_faults (t := s.setMem (s.mem.writeAll (s.ea 0) (s.regsUpTo x))) rfl ⟨fun r hr => ?_, ?_⟩
  · have hlt : r.val < (s.regsUpTo x).length := by
      rw [regsUpTo_length]
      exact Nat.lt_succ_of_le hr
    rw [read_ea_setMem_writeAll s _ hlt, regsUpTo_getElem]
    rfl
  · rw [← regsUpTo_length s x]
    exact onlyWrites_setMem_writeAll s (s.regsUpTo x)

/-- Settles O24: a register up to Vx takes the byte at its effective address, any other keeps its value. -/
theorem registersLoaded : Obligations.RegistersLoaded := fun s x =>
  completes_or_faults (t := { s with V := s.loadedRegs x }) rfl
    ⟨fun r hr => (loadedRegs_getElem s x r).trans (if_pos hr), onlyWrites_loadedRegs s x⟩

end Sys2Proof.Machine
end

section
/-! PROOFS. The screen: CLS; what a sprite leaves in each pixel and when it collides, row by row; a DRW that completes,
a DRW that faults, and two DRWs of one sprite (R165 to R173). -/

namespace Sys2Proof.Machine

open Sys2Proof.Claims

theorem onlyWrites_setFb (s : State) (f : Framebuffer) : OnlyWrites { screen := true } s (s.setFb f) :=
  { onlyWrites_refl { screen := true } s with screen := nofun }

/-- The first `n` columns of a row collide where a set pixel of the grid meets a set bit. A column is on its own pixel, so
the earlier ones have not changed it (R168). -/
theorem blitColumns_collision (row : Byte) (x0 y n : Nat) (p : Framebuffer × Bool) :
    (blitColumns row x0 y n p).2 = true ↔
      p.2 = true ∨ ∃ k < n, (x0 + k < 64 ∧ y < 32) ∧ p.1.pixel (x0 + k) y = true ∧ row.getLsbD (7 - k) = true := by
  induction n with
  | zero => simp [blitColumns]
  | succ n ih =>
    have hpix : (blitColumns row x0 y n p).1.pixel (x0 + n) y = p.1.pixel (x0 + n) y := by
      rw [blitColumns_pixel, if_neg (by omega)]
    rw [blitColumns, blitPixel_collision, hpix, Bool.or_eq_true, ih, or_assoc, Nat.exists_lt_succ_right]
    simp only [Bool.and_eq_true, decide_eq_true_eq]

section
variable (s : State) (x y : Reg)

/-! ## The sprite bits (R167, R170) -/

/-- Inside the 8 × N rectangle at the origin, the bit is bit 7 − column of the row's byte; outside there is none. -/
theorem spriteBit_iff_inside (n px py : Nat) :
    spriteBit s x y n px py = true ↔
      (s.originX x ≤ px ∧ px < s.originX x + 8 ∧ s.originY y ≤ py ∧ py < s.originY y + n) ∧
        (s.mem.read (s.ea (py - s.originY y))).getLsbD (7 - (px - s.originX x)) = true := by
  rw [spriteBit, Bool.and_eq_true, decide_eq_true_eq]
  rfl

/-- A sprite of no rows has no bits. -/
theorem spriteBit_zero (px py : Nat) : spriteBit s x y 0 px py = false := by
  rw [Bool.eq_false_iff, Ne, spriteBit_iff_inside]
  omega

/-- One row more puts its byte on its own eight pixels and leaves the bits of the other rows. -/
theorem spriteBit_succ (n px py : Nat) :
    spriteBit s x y (n + 1) px py =
      if py = s.originY y + n ∧ s.originX x ≤ px ∧ px < s.originX x + 8 then
        (s.mem.read (s.ea n)).getLsbD (7 - (px - s.originX x))
      else spriteBit s x y n px py := by
  rw [Bool.eq_iff_iff, spriteBit_iff_inside]
  split
  case isTrue h =>
    obtain ⟨rfl, hle, hlt⟩ := h
    rw [Nat.add_sub_cancel_left]
    exact and_iff_right (by omega)
  case isFalse h =>
    rw [spriteBit_iff_inside]
    exact and_congr_left' (by omega)

/-- Column `k` of row `r` is bit 7 − k of the byte at I + r. -/
theorem spriteBit_iff_exists (n px py : Nat) :
    spriteBit s x y n px py = true ↔ ∃ r < n, ∃ k < 8, px = s.originX x + k ∧ py = s.originY y + r ∧
      (s.mem.read (s.ea r)).getLsbD (7 - k) = true := by
  rw [spriteBit_iff_inside]
  constructor
  · rintro ⟨hin, hbit⟩
    exact ⟨py - s.originY y, by omega, px - s.originX x, by omega, by omega, by omega, hbit⟩
  · rintro ⟨r, hr, k, hk, rfl, rfl, hbit⟩
    refine ⟨by omega, ?_⟩
    rwa [Nat.add_sub_cancel_left, Nat.add_sub_cancel_left]

/-! ## The sprite on the screen, by its rows -/

theorem blit_succ (n : Nat) :
    s.blit x y (n + 1) = blitColumns (s.mem.read (s.ea n)) (s.originX x) (s.originY y + n) 8 (s.blit x y n) := rfl

/-- The rows of the screen below the rows drawn are as they were. -/
theorem blit_pixel_below {n : Nat} {px py : Nat} (h : s.originY y + n ≤ py) :
    (s.blit x y n).1.pixel px py = s.fb.pixel px py := by
  induction n with
  | zero => rfl
  | succ n ih => rw [blit_succ, blitColumns_pixel, if_neg (by omega), ih (by omega)]

/-- Each pixel of the grid is xored with the sprite bit that lands on it (R167, R169). -/
theorem blit_pixel (n : Nat) {px py : Nat} (hx : px < 64) (hy : py < 32) :
    (s.blit x y n).1.pixel px py = (s.fb.pixel px py ^^ spriteBit s x y n px py) := by
  induction n with
  | zero =>
    rw [spriteBit_zero, Bool.xor_false]
    rfl
  | succ n ih =>
    rw [blit_succ, blitColumns_pixel, spriteBit_succ]
    by_cases h : py = s.originY y + n ∧ s.originX x ≤ px ∧ px < s.originX x + 8
    · rw [if_pos (by omega), if_pos h, blit_pixel_below s x y (by omega)]
    · rw [if_neg (by omega), if_neg h, ih]

/-- The collision, by the rows and columns of the sprite: each meets the pixel as it was before the draw. -/
theorem blit_collision_rows (n : Nat) :
    (s.blit x y n).2 = true ↔ ∃ r < n, ∃ k < 8, (s.originX x + k < 64 ∧ s.originY y + r < 32) ∧
      s.fb.pixel (s.originX x + k) (s.originY y + r) = true ∧ (s.mem.read (s.ea r)).getLsbD (7 - k) = true := by
  induction n with
  | zero => simp [State.blit, State.blitRows]
  | succ n ih =>
    rw [blit_succ, blitColumns_collision, ih, Nat.exists_lt_succ_right (n := n)]
    simp only [blit_pixel_below s x y le_rfl]

/-- A sprite collides exactly when a set pixel of the grid meets a set sprite bit (R168). -/
theorem blit_collision (n : Nat) :
    (s.blit x y n).2 = true ↔
      ∃ px py, px < 64 ∧ py < 32 ∧ s.fb.pixel px py = true ∧ spriteBit s x y n px py = true := by
  simp only [blit_collision_rows, spriteBit_iff_exists]
  constructor
  · rintro ⟨r, hr, k, hk, ⟨hx, hy⟩, hpix, hbit⟩
    exact ⟨_, _, hx, hy, hpix, r, hr, k, hk, rfl, rfl, hbit⟩
  · rintro ⟨_, _, hx, hy, hpix, r, hr, k, hk, rfl, rfl, hbit⟩
    exact ⟨r, hr, k, hk, ⟨hx, hy⟩, hpix, hbit⟩

/-! ## The instruction, by whether its bytes exist -/

/-- The state that a completed DRW leaves (R166). -/
def State.drawn (n : Nat) : State := (s.setFb (s.blit x y n).1).setReg VF (flagByte (s.blit x y n).2)

/-- A draw whose bytes all exist completes; with N = 0 it reads none (R173, D31). -/
theorem exec_drw_of_le {n : Nat} (h : n = 0 ∨ s.I.toNat + n - 1 ≤ 4095) :
    exec (.drw x y n) s = .next (s.drawn x y n) :=
  guardAddress_of_le _ _ _ (by rw [ea_eq]; split <;> omega)

/-- A draw with a byte above 4095 faults before any effect (R173, D31). -/
theorem exec_drw_of_gt {n : Nat} (hn : 0 < n) (h : s.I.toNat + n - 1 > 4095) :
    exec (.drw x y n) s = .next (faulted s .outOfBoundsAccess (.drw x y n)) :=
  guardAddress_of_gt _ _ _ (by rw [ea_eq, if_neg hn.ne']; omega)

theorem drawn_flag (n : Nat) : (s.drawn x y n).V[VF] = flagByte (s.blit x y n).2 := V_setReg_same _ VF _

theorem onlyWrites_drawn (n : Nat) : OnlyWrites { regs := [VF], screen := true } s (s.drawn x y n) :=
  { onlyWrites_refl { regs := [VF], screen := true } s with
    regs := (onlyWrites_setReg (s.setFb (s.blit x y n).1) VF _).regs
    screen := nofun }

end

theorem flagByte_eq_one_iff (b : Bool) : flagByte b = 1 ↔ b = true := by
  cases b <;> simp [flagByte]

/-- The sprite bits depend on the coordinate registers, I and memory alone. -/
theorem spriteBit_congr {s t : State} {x y : Reg} (hx : t.V[x] = s.V[x]) (hy : t.V[y] = s.V[y]) (hI : t.I = s.I)
    (hmem : ∀ a, t.mem.read a = s.mem.read a) (n px py : Nat) :
    spriteBit t x y n px py = spriteBit s x y n px py := by
  simp only [spriteBit, hx, hy, hI, hmem]

/-! ## The statements -/

/-- Settles O27: the screen is replaced by the cleared one. -/
theorem clearScreen : Obligations.ClearScreen := fun s =>
  ⟨rfl, _, rfl, fun x y _ _ => pixel_clear x y, onlyWrites_setFb s _⟩

/-- Settles O28, by the pixels and the collision of the sprite's rows; VF is written last. -/
theorem drawXorsAndReportsCollision : Obligations.DrawXorsAndReportsCollision := by
  intro s x y n h
  refine ⟨_, exec_drw_of_le s x y h, fun px py => blit_pixel s x y n, ?_, ?_, onlyWrites_drawn s x y n⟩
  · rw [drawn_flag]
    exact flagByte_zero_or_one _
  · rw [drawn_flag, flagByte_eq_one_iff, blit_collision]

/-- Settles O29: the highest address of the sprite fails the check. -/
theorem drawOutOfBoundsFaults : Obligations.DrawOutOfBoundsFaults := fun s x y _ => exec_drw_of_gt s x y

/-- Settles O30: the second draw meets the same sprite bits `b` and the pixels `p ^^ b`. Hence `(p ^^ b) ^^ b = p`, and it
collides where `p ^^ b` and `b` are set, that is where the first draw turned `p` on. -/
theorem drawTwiceRestoresTheScreen : Obligations.DrawTwiceRestoresTheScreen := by
  intro s t u x y n h hx hy hst htu
  obtain ⟨_, hst', hpix, -, -, hframe⟩ := drawXorsAndReportsCollision s x y n h
  cases hst.symm.trans hst'
  have hI : t.I = s.I := hframe.index rfl
  obtain ⟨_, htu', hpix', -, hflag, -⟩ := drawXorsAndReportsCollision t x y n (hI ▸ h)
  cases htu.symm.trans htu'
  have hbit := spriteBit_congr (hframe.regs x (by simpa using hx)) (hframe.regs y (by simpa using hy)) hI
    (fun a => hframe.bytes a List.not_mem_nil) n
  constructor
  · refine framebuffer_ext fun px py hpx hpy => ?_
    rw [hpix' px py hpx hpy, hpix px py hpx hpy, hbit, Bool.xor_assoc, Bool.xor_self, Bool.xor_false]
  · rw [hflag]
    refine exists₂_congr fun px py => and_congr_right fun hpx => and_congr_right fun hpy => ?_
    rw [hbit, hpix px py hpx hpy]
    cases s.fb.pixel px py <;> simp

end Sys2Proof.Machine
end

section
/-! PROOFS. The key and timer instructions: a key instruction goes by the key of the sample that Vx numbers, or faults; a
timer instruction copies a whole byte (R180 to R186). -/

namespace Sys2Proof.Machine

open Sys2Proof.Claims

/-- The encoding with the constant part of the word first, as the timer statements write it. -/
theorem encodeI_toNat_base_first {op nn : Nat} (x : Reg) (hop : op < 16) (hnn : nn < 256) :
    (encodeI op x nn).toNat = op * 4096 + nn + x.val * 256 :=
  (encodeI_toNat hop hnn).trans (Nat.add_right_comm _ _ _)

section
variable (s : State) (x : Reg)

/-! ## The key instructions, by whether Vx numbers a key -/

theorem exec_skp : exec (.skp x) s = guardKey (.skp x) x s fun down => if down then s.skip else s := rfl

/-- SKNP, written as a skip on the negated condition. -/
theorem exec_sknp : exec (.sknp x) s = guardKey (.sknp x) x s fun down => if ¬ down then s.skip else s := by
  simp only [ite_not]
  rfl

theorem exec_waitk : exec (.waitk x) s = guardKey (.waitk x) x s fun down => if down then s else s.rewind := rfl

section
variable {s x} {i : Instr} {f : Bool → State} (hi : exec i s = guardKey i x s f)
include hi

theorem exec_of_key (h : s.V[x].toNat < 16) : exec i s = .next (f s.sample.key[s.V[x].toNat]) :=
  hi.trans (guardKey_of_lt i x s f h)

theorem exec_of_no_key (h : s.V[x].toNat ≥ 16) : exec i s = .next (faulted s .outOfBoundsAccess i) :=
  hi.trans (guardKey_of_ge i x s f h)

end

/-! ## The timers -/

theorem onlyWrites_setDT (b : Byte) : OnlyWrites { delay := true } s (s.setDT b) :=
  { onlyWrites_refl { delay := true } s with delay := nofun }

theorem onlyWrites_setST (b : Byte) : OnlyWrites { sound := true } s (s.setST b) :=
  { onlyWrites_refl { sound := true } s with sound := nofun }

/-- Sound is active exactly while ST is above 0 (R207). -/
theorem soundActive_iff : s.soundActive = true ↔ 0 < s.ST.toNat := decide_eq_true_iff

end

/-! ## The statements -/

/-- Settles O31: SKP skips if the key is down, SKNP unless. -/
theorem keySkips : Obligations.KeySkips := fun s x =>
  ⟨fun h => ⟨skips_if (exec_of_key (exec_skp s x) h), skips_unless (exec_of_key (exec_sknp s x) h)⟩,
    fun h => ⟨exec_of_no_key (exec_skp s x) h, exec_of_no_key (exec_sknp s x) h⟩⟩

/-- Settles O32, by whether the key is down: going back is a load of pc. -/
theorem waitKeyFallsThroughOrRepeats : Obligations.WaitKeyFallsThroughOrRepeats := by
  refine fun s x => ⟨fun h => ⟨fun hdown => ?_, fun hup => ?_⟩, exec_of_no_key (exec_waitk s x)⟩
  · rw [exec_of_key (exec_waitk s x) h, hdown, if_pos rfl]
  · refine ⟨s.rewind, ?_, s.rewind_pc, onlyWrites_setPc s (s.pc - 2)⟩
    rw [exec_of_key (exec_waitk s x) h, hup, if_neg Bool.false_ne_true]

/-- Settles O33: each of the three instructions copies one byte. -/
theorem timerAccess : Obligations.TimerAccess := fun s x =>
  ⟨encodeI_toNat_base_first x (by decide) (by decide), encodeI_toNat_base_first x (by decide) (by decide),
    encodeI_toNat_base_first x (by decide) (by decide),
    ⟨_, rfl, V_setReg_same s x s.DT, onlyWrites_setReg s x s.DT⟩,
    ⟨_, rfl, rfl, onlyWrites_setDT s (s.reg x)⟩,
    ⟨_, rfl, rfl, soundActive_iff (s.setST (s.reg x)), onlyWrites_setST s (s.reg x)⟩⟩

end Sys2Proof.Machine
end

section
/-! PROOFS. The scheduler's two clocks: the timer time that completed cycles accrue and the ticks it makes due, in closed
form, and a Frame as a run of steps (R195 to R206, R210). -/

namespace Sys2Proof.Machine

open Sys2Proof.Claims

/-! ## The timer tick and the accrual of one cycle -/

/-- Settles O53: each timer is decremented, and no other part is written. -/
theorem timerTickDecrementsBoth : Obligations.TimerTickDecrementsBoth := fun s =>
  ⟨decrement_toNat s.DT, decrement_toNat s.ST,
    { onlyWrites_refl { delay := true, sound := true } s with delay := nofun, sound := nofun }⟩

/-- `n` ticks take `n` off a timer, floored at 0 (R201). -/
theorem decrement_iterate_toNat (n : Nat) (b : Byte) : (decrement^[n] b).toNat = b.toNat - n := by
  induction n generalizing b with
  | zero => rfl
  | succ n ih =>
    rw [Function.iterate_succ_apply, ih, decrement_toNat]
    omega

/-- The state after `n` timer ticks, with `phase` of timer time left over. -/
def State.ticked (s : State) (n phase : Nat) : State :=
  { s with DT := decrement^[n] s.DT, ST := decrement^[n] s.ST, timerPhase := phase }

section
variable (s : State)

theorem ticked_DT_toNat (n phase : Nat) : (s.ticked n phase).DT.toNat = s.DT.toNat - n := decrement_iterate_toNat n s.DT

theorem ticked_ST_toNat (n phase : Nat) : (s.ticked n phase).ST.toNat = s.ST.toNat - n := decrement_iterate_toNat n s.ST

/-- Ticks add up. -/
theorem ticked_ticked (m n phase phase' : Nat) : (s.ticked m phase).ticked n phase' = s.ticked (m + n) phase' := by
  simp only [State.ticked, Nat.add_comm m n, Function.iterate_add_apply]

/-- While enough phase is there, the loop ticks as often as it may, each time for one timer period (R200). -/
theorem tickLoop_eq_ticked (n : Nat) (h : n * s.phasePeriod ≤ s.timerPhase) :
    s.tickLoop n = s.ticked n (s.timerPhase - n * s.phasePeriod) := by
  induction n generalizing s with
  | zero => simp [State.tickLoop, State.ticked]
  | succ n ih =>
    rw [Nat.succ_mul] at h
    have hstep : State.timerTick { s with timerPhase := s.timerPhase - s.phasePeriod }
        = s.ticked 1 (s.timerPhase - s.phasePeriod) := rfl
    have hrest : n * s.phasePeriod ≤ s.timerPhase - s.phasePeriod := by omega
    rw [State.tickLoop, if_pos (by omega), hstep, ih _ hrest, ticked_ticked, Nat.add_comm 1 n, Nat.succ_mul,
      Nat.add_comm _ s.phasePeriod, ← Nat.sub_sub]
    rfl

/-- A completed cycle delivers the whole timer periods in the phase it adds to, and keeps the remainder (R199, R200). -/
theorem accrue_eq_ticked :
    s.accrue = s.ticked ((s.timerPhase + s.phaseStep) / s.phasePeriod) ((s.timerPhase + s.phaseStep) % s.phasePeriod) := by
  have hloop := tickLoop_eq_ticked { s with timerPhase := s.timerPhase + s.phaseStep } _
    (Nat.div_mul_le_self (s.timerPhase + s.phaseStep) s.phasePeriod)
  have hmod : (s.timerPhase + s.phaseStep) % s.phasePeriod
      = s.timerPhase + s.phaseStep - (s.timerPhase + s.phaseStep) / s.phasePeriod * s.phasePeriod := by
    rw [Nat.mod_eq_sub_mul_div, Nat.mul_comm]
  rw [hmod]
  exact hloop

/-- The closed form over `k` completed cycles (R205), by induction on them: a remainder that was kept counts again. -/
theorem accrue_iterate (k : Nat) (h : s.timerPhase < s.phasePeriod) :
    State.accrue^[k] s =
      s.ticked ((s.timerPhase + k * s.phaseStep) / s.phasePeriod) ((s.timerPhase + k * s.phaseStep) % s.phasePeriod) := by
  induction k with
  | zero => simp [Nat.div_eq_of_lt h, Nat.mod_eq_of_lt h, State.ticked]
  | succ k ih =>
    have hsum : s.timerPhase + (k + 1) * s.phaseStep
        = (s.timerPhase + k * s.phaseStep) % s.phasePeriod + s.phaseStep
          + s.phasePeriod * ((s.timerPhase + k * s.phaseStep) / s.phasePeriod) := by
      have := Nat.mod_add_div (s.timerPhase + k * s.phaseStep) s.phasePeriod
      rw [Nat.succ_mul]
      omega
    rw [Function.iterate_succ_apply', ih, accrue_eq_ticked, ticked_ticked, hsum,
      Nat.add_mul_div_left _ _ (Nat.zero_lt_of_lt h), Nat.add_mul_mod_self_left, Nat.add_comm]
    rfl

end

/-! ## The timer phase in seconds -/

section
variable {s : State} (h : 0 < s.clockFrequency)
include h

theorem phasePeriod_pos : 0 < s.phasePeriod := Int.lt_toNat.mpr (Rat.num_pos.mpr h)

theorem phasePeriod_cast : (s.phasePeriod : ℚ) = s.clockFrequency.num := by
  exact_mod_cast Int.toNat_of_nonneg (Rat.num_pos.mpr h).le

/-- One timer period is `phasePeriod` units of the phase (R205). -/
theorem phasePeriod_seconds : (s.phasePeriod : ℚ) / (60 * s.clockFrequency.num) = timerPeriod := by
  have hnum : (s.clockFrequency.num : ℚ) ≠ 0 := by exact_mod_cast (Rat.num_pos.mpr h).ne'
  rw [phasePeriod_cast h, timerPeriod]
  field_simp
  norm_num

omit h in
/-- One instruction period is `phaseStep` units of the phase (R205). -/
theorem phaseStep_seconds : (s.phaseStep : ℚ) / (60 * s.clockFrequency.num) = s.instructionPeriod := by
  rw [State.instructionPeriod, State.phaseStep]
  nth_rw 3 [← Rat.num_div_den s.clockFrequency]
  push_cast
  rw [one_div_div, mul_div_mul_left _ _ (by norm_num)]

/-- What `n` ticks leave of a phase, in seconds: one timer period less for each. -/
theorem ticked_accTimer (phase : Nat) :
    (s.ticked (phase / s.phasePeriod) (phase % s.phasePeriod)).accTimer =
      phase / (60 * s.clockFrequency.num) - (phase / s.phasePeriod : Nat) * timerPeriod := by
  have hdiv : (phase : ℚ) = (phase % s.phasePeriod : Nat) + s.phasePeriod * (phase / s.phasePeriod : Nat) := by
    exact_mod_cast (Nat.mod_add_div phase s.phasePeriod).symm
  rw [← phasePeriod_seconds h, eq_sub_iff_add_eq]
  rw [hdiv]
  show ((phase % s.phasePeriod : Nat) : ℚ) / (60 * s.clockFrequency.num) + _ = _
  ring

/-- A phase below `phasePeriod` is less than one timer period (R35). -/
theorem accTimer_mem {t : State} (hclock : t.clockFrequency = s.clockFrequency) (hlt : t.timerPhase < s.phasePeriod) :
    0 ≤ t.accTimer ∧ t.accTimer < timerPeriod := by
  have hnum : (0 : ℚ) < 60 * s.clockFrequency.num := mul_pos (by norm_num) (by exact_mod_cast Rat.num_pos.mpr h)
  have heq : t.accTimer = t.timerPhase / (60 * s.clockFrequency.num) := by rw [← hclock]; rfl
  rw [heq, ← phasePeriod_seconds h]
  exact ⟨div_nonneg (Nat.cast_nonneg _) hnum.le, div_lt_div_of_pos_right (by exact_mod_cast hlt) hnum⟩

/-- The whole timer periods in `k` instruction periods (R205). -/
theorem floor_timer_ticks (k : Nat) :
    (60 * k / s.clockFrequency).floor.toNat = k * s.phaseStep / s.phasePeriod := by
  have hq : 60 * k / s.clockFrequency = ((k * s.phaseStep : Nat) : ℚ) / s.phasePeriod := by
    rw [phasePeriod_cast h, State.phaseStep]
    nth_rw 1 [← Rat.num_div_den s.clockFrequency]
    push_cast
    rw [div_div_eq_mul_div]
    ring
  rw [hq]
  exact Rat.natFloor_natCast_div_natCast _ _

end

/-- Settles O54: the ticks are the whole timer periods in the phase after one instruction period is added. -/
theorem accrualDeliversTheDueTicks : Obligations.AccrualDeliversTheDueTicks := by
  intro s h
  obtain ⟨hnonneg, hlt⟩ := accTimer_mem (t := s.accrue) h (by rw [accrue_eq_ticked]; rfl)
    (by rw [accrue_eq_ticked]; exact Nat.mod_lt _ (phasePeriod_pos h))
  refine ⟨(s.timerPhase + s.phaseStep) / s.phasePeriod, ?_, hnonneg, hlt, ?_, ?_, ?_⟩ <;> rw [accrue_eq_ticked]
  · rw [ticked_accTimer h, Nat.cast_add, add_div, phaseStep_seconds]
    rfl
  · exact ticked_DT_toNat s _ _
  · exact ticked_ST_toNat s _ _
  · rfl

/-- Settles O55, by the closed form of the phase: from a clear one, k cycles add k instruction periods. -/
theorem ticksAfterManyCycles : Obligations.TicksAfterManyCycles := by
  intro k s h h0
  have hk := accrue_iterate s k (h0 ▸ phasePeriod_pos h)
  rw [h0, Nat.zero_add] at hk
  rw [hk, floor_timer_ticks h]
  refine ⟨ticked_DT_toNat s _ _, ticked_ST_toNat s _ _, ?_⟩
  rw [ticked_accTimer h, Nat.cast_mul, mul_div_assoc, phaseStep_seconds, State.instructionPeriod, timerPeriod,
    mul_one_div, mul_one_div]
  norm_num

/-! ## Runs of steps -/

section
variable {s t u : State} {k : Nat}

/-- A run goes on from the state its first step answers. -/
theorem run_succ (h : step s = .next u) : Host.Core.run Sys2Proof.core (k + 1) s = Host.Core.run Sys2Proof.core k u := by
  have hs : Sys2Proof.core.step s = .next u := h
  simp only [Host.Core.run, hs]

/-- A run that answers a next state began with a step that did. -/
theorem run_succ_cases (h : Host.Core.run Sys2Proof.core (k + 1) s = .next t) :
    ∃ u, step s = .next u ∧ Host.Core.run Sys2Proof.core k u = .next t := by
  cases hs : Sys2Proof.core.step s with
  | next u => exact ⟨u, hs, by simpa only [Host.Core.run, hs] using h⟩
  | fault _ => simp [Host.Core.run, hs] at h
  | refused _ => simp [Host.Core.run, hs] at h

/-- No step lifts a halt: a run that ends in a running block began in one (R101). -/
theorem running_of_run (h : Host.Core.run Sys2Proof.core k s = .next t) (ht : t.halted = false) : s.halted = false := by
  cases k with
  | zero => cases h; exact ht
  | succ k =>
    obtain ⟨u, hu, -⟩ := run_succ_cases h
    exact (step_cases hu).1

/-- A step that does not halt the block accrues one instruction period, whatever the instruction was (R107, R199). -/
theorem step_timerPhase (h : step s = .next t) (ht : t.halted = false) :
    t.timerPhase = (s.timerPhase + s.phaseStep) % s.phasePeriod := by
  obtain ⟨u, rfl, hu⟩ := step_frame h
  have hrun : u.halted = false := by
    obtain ⟨_, _, _, hc⟩ := afterCycle_only u
    rwa [hc] at ht
  have hsame : u.timerPhase = s.timerPhase ∧ u.clockFrequency = s.clockFrequency := by
    obtain ⟨pc, halted, lastFault, rfl⟩ | ⟨w, i, -, -, hw⟩ := hu
    · exact ⟨rfl, rfl⟩
    · exact ⟨hw.scheduler.2, hw.configuration.1⟩
  obtain ⟨hphase, hclock⟩ := hsame
  rw [afterCycle_of_running hrun, accrue_eq_ticked]
  show (u.timerPhase + 60 * u.clockFrequency.den) % u.clockFrequency.num.toNat = _
  rw [hphase, hclock]
  rfl

/-- The same over a run: the phase is that of `k` accruals (R206). -/
theorem run_timerPhase (h : Host.Core.run Sys2Proof.core k s = .next t) (ht : t.halted = false)
    (hlt : s.timerPhase < s.phasePeriod) :
    t.timerPhase = (s.timerPhase + k * s.phaseStep) % s.phasePeriod ∧ t.clockFrequency = s.clockFrequency := by
  induction k generalizing s with
  | zero =>
    cases h
    exact ⟨by rw [Nat.zero_mul, Nat.add_zero, Nat.mod_eq_of_lt hlt], rfl⟩
  | succ k ih =>
    obtain ⟨u, hu, hrun⟩ := run_succ_cases h
    have hphase := step_timerPhase hu (running_of_run hrun ht)
    have hclock := (step_accCpu_clock hu).2
    have hperiod : u.phasePeriod = s.phasePeriod := congrArg (·.num.toNat) hclock
    have hstep : u.phaseStep = s.phaseStep := congrArg (60 * ·.den) hclock
    obtain ⟨ht', hclock'⟩ := ih hrun (by rw [hphase, hperiod]; exact Nat.mod_lt _ (Nat.zero_lt_of_lt hlt))
    refine ⟨?_, hclock'.trans hclock⟩
    rw [ht', hphase, hperiod, hstep, Nat.mod_add_mod, Nat.succ_mul, Nat.add_assoc, Nat.add_comm s.phaseStep]

end

/-- Settles O56: the phase after k steps is that after k accruals, which O55 gives in seconds. -/
theorem timerPhaseDependsOnlyOnTheNumberOfSteps : Obligations.TimerPhaseDependsOnlyOnTheNumberOfSteps := by
  intro k s t h h0 hrun ht
  have hlt : s.timerPhase < s.phasePeriod := h0 ▸ phasePeriod_pos h
  obtain ⟨hphase, hclock⟩ := run_timerPhase hrun ht hlt
  have hsame : t.accTimer = (State.accrue^[k] s).accTimer := by
    rw [accrue_iterate s k hlt, State.accTimer, hphase, hclock]
    rfl
  obtain ⟨-, -, hacc⟩ := ticksAfterManyCycles k s h h0
  rw [hsame, hacc]

end Sys2Proof.Machine
end

section
/-! PROOFS. A Frame as a run of steps: `acc_cpu` is the scheduler's own, so a step does the same whatever it holds
(R34, R197, R198). -/

namespace Sys2Proof.Machine

open Sys2Proof.Claims

/-! ## The cycle by the outcome of its fetch -/

section
variable {s : State}

/-- A fetch off memory faults (R102). -/
theorem cycle_of_no_word (hf : s.fetchWord = none) : s.cycle = .next s.raiseFetch := by
  simp [State.cycle, hf]

/-- An invalid word faults, or is logged, with pc advanced (R105, R216). -/
theorem cycle_of_invalid {w : Word} {r : Reject} (hf : s.fetchWord = some w) (hd : decodeWord w = .error r) :
    s.cycle = .next (s.advancePc.invalidOpcode w) := by
  simp [State.cycle, hf, hd]

/-- Every cycle answers a next state: the faults of the spec are next states too (R221). -/
theorem cycle_next (s : State) : ∃ t, s.cycle = .next t := by
  cases hf : s.fetchWord with
  | none => exact ⟨_, cycle_of_no_word hf⟩
  | some w =>
    cases hd : decodeWord w with
    | error _ => exact ⟨_, cycle_of_invalid hf hd⟩
    | ok i =>
      obtain ⟨t, ht, -⟩ := exec_effect s.advancePc i
      exact ⟨t, (cycle_of_decodeWord hf hd).trans ht⟩

end

/-! ## A step neither reads nor writes the scheduler time saved -/

/-- The state with other scheduler time saved. -/
def State.setAccCpu (s : State) (c : Rat) : State := { s with accCpu := c }

section
variable (s : State) (c : Rat)

@[simp] theorem setAccCpu_halted : (s.setAccCpu c).halted = s.halted := rfl

theorem blitRows_setAccCpu (x0 y0 n : Nat) (p : Framebuffer × Bool) :
    (s.setAccCpu c).blitRows x0 y0 n p = s.blitRows x0 y0 n p := by
  induction n with
  | zero => rfl
  | succ n ih =>
    rw [State.blitRows, State.blitRows, ih]
    rfl

/-- A skip, taken or not, leaves the saved time alone. -/
theorem skipIf_setAccCpu (p : Prop) [Decidable p] :
    (if p then (s.setAccCpu c).skip else s.setAccCpu c) = (if p then s.skip else s).setAccCpu c := by
  split <;> rfl

variable {s c}

/-- A checked access faults or goes through whatever the saved time. -/
theorem guardAddress_setAccCpu (i : Instr) (last : Nat) {t u : State} (hu : u = t.setAccCpu c) :
    guardAddress i last (s.setAccCpu c) u = onNext (·.setAccCpu c) (guardAddress i last s t) := by
  rw [hu, guardAddress, guardAddress, apply_ite (onNext _)]
  rfl

/-- A key instruction tests the same key whatever the saved time. -/
theorem guardKey_setAccCpu (i : Instr) (x : Reg) {f g : Bool → State} (hfg : ∀ down, f down = (g down).setAccCpu c) :
    guardKey i x (s.setAccCpu c) f = onNext (·.setAccCpu c) (guardKey i x s g) := by
  rw [funext hfg, guardKey, guardKey, apply_dite (onNext _)]
  rfl

variable (s c)

/-- No instruction looks at the saved time (R34). -/
theorem exec_setAccCpu (i : Instr) : exec i (s.setAccCpu c) = onNext (·.setAccCpu c) (exec i s) := by
  cases i <;> simp only [exec]
  case ret =>
    rw [execRet, execRet, apply_ite (onNext _)]
    rfl
  case call =>
    rw [execCall, execCall, apply_dite (onNext _)]
    rfl
  case seImm | sneImm | seReg | sneReg => exact congrArg _ (skipIf_setAccCpu s c _)
  case drw x y n =>
    have hblit : (s.setAccCpu c).blit x y n = s.blit x y n := blitRows_setAccCpu s c _ _ n _
    rw [execDrw, hblit]
    exact guardAddress_setAccCpu _ _ rfl
  case ldB | storeRegs | loadRegs => exact guardAddress_setAccCpu _ _ rfl
  case skp => exact guardKey_setAccCpu _ _ fun _ => skipIf_setAccCpu s c _
  case sknp | waitk => exact guardKey_setAccCpu _ _ fun down => by cases down <;> rfl
  all_goals rfl

theorem invalidOpcode_setAccCpu (w : Word) : (s.setAccCpu c).invalidOpcode w = (s.invalidOpcode w).setAccCpu c := by
  rw [State.invalidOpcode, State.invalidOpcode, apply_ite (State.setAccCpu · c)]
  rfl

theorem cycle_setAccCpu : (s.setAccCpu c).cycle = onNext (·.setAccCpu c) s.cycle := by
  cases hf : s.fetchWord with
  | none =>
    rw [cycle_of_no_word hf, cycle_of_no_word (s := s.setAccCpu c) hf]
    rfl
  | some w =>
    cases hd : decodeWord w with
    | ok i =>
      rw [cycle_of_decodeWord hf hd, cycle_of_decodeWord (s := s.setAccCpu c) hf hd]
      exact exec_setAccCpu s.advancePc c i
    | error _ =>
      rw [cycle_of_invalid hf hd, cycle_of_invalid (s := s.setAccCpu c) hf hd]
      exact congrArg _ (invalidOpcode_setAccCpu s.advancePc c w)

theorem afterCycle_setAccCpu : (s.setAccCpu c).afterCycle = s.afterCycle.setAccCpu c := by
  cases h : s.halted with
  | true => rw [afterCycle_of_halted h, afterCycle_of_halted (s := s.setAccCpu c) h]; rfl
  | false =>
    rw [afterCycle_of_running h, afterCycle_of_running (s := s.setAccCpu c) h, accrue_eq_ticked, accrue_eq_ticked]
    rfl

variable {s}

/-- A step from other saved time answers the same state, with that time in it (R34). -/
theorem step_setAccCpu {t : State} (h : step s = .next t) : step (s.setAccCpu c) = .next (t.setAccCpu c) := by
  have hrun : s.halted = false := (step_cases h).1
  rw [step_of_running hrun] at h
  rw [step_of_running (s := s.setAccCpu c) hrun, cycle_setAccCpu]
  cases hc : s.cycle with
  | next u =>
    rw [hc] at h
    cases h
    exact congrArg _ (afterCycle_setAccCpu u c)
  | fault _ => simp [hc, onNext] at h
  | refused _ => simp [hc, onNext] at h

end

/-- A running block's step answers a next state: every fault of the spec is one (R221, R264). -/
theorem step_next_of_running {s : State} (h : s.halted = false) : ∃ t, step s = .next t := by
  obtain ⟨t, ht⟩ := cycle_next s
  exact ⟨t.afterCycle, by rw [step_of_running h, ht]; rfl⟩

/-! ## The turns of a Frame's loop -/

/-- `m` turns of a Frame's loop lead from `s` to `t`: each spends one instruction period and steps (R198). Only the last
can halt the block, which then steps no more. -/
inductive FrameTurns : Nat → State → State → Prop
  | done (s : State) : FrameTurns 0 s s
  | turn {m : Nat} {s u t : State} (hle : s.instructionPeriod ≤ s.accCpu)
      (hu : step (s.setAccCpu (s.accCpu - s.instructionPeriod)) = .next u) (hturns : FrameTurns m u t) :
      FrameTurns (m + 1) s t

/-- One turn of the loop with a period saved, by the state its step answers. -/
theorem frameLoop_turn (n : Nat) {s u : State} (hle : s.instructionPeriod ≤ s.accCpu)
    (hu : step (s.setAccCpu (s.accCpu - s.instructionPeriod)) = .next u) :
    frameLoop (n + 1) s = if u.halted then .next u else frameLoop n u := by
  obtain ⟨hlt, -⟩ | ⟨-, ⟨v, hv, hl⟩ | ⟨_, hf, -⟩ | ⟨_, hr, -⟩⟩ := frameLoop_succ n s
  · exact absurd hle (not_le.mpr hlt)
  · cases hu.symm.trans hv
    exact hl
  · exact absurd (hu.symm.trans hf) nofun
  · exact absurd (hu.symm.trans hr) nofun

/-- What the first turn does to the saved time and the clock. -/
theorem turn_accCpu_period {s u : State} (hu : step (s.setAccCpu (s.accCpu - s.instructionPeriod)) = .next u) :
    u.accCpu = s.accCpu - s.instructionPeriod ∧ u.instructionPeriod = s.instructionPeriod :=
  ⟨(step_accCpu_clock hu).1, (step_instructionPeriod hu :)⟩

/-- With time for `n` turns, a running block's loop takes them all, unless one halts the block (R197, R204). -/
theorem frameLoop_turns (n : Nat) {s : State} (hrun : s.halted = false) (hP : 0 ≤ s.instructionPeriod)
    (hn : n * s.instructionPeriod ≤ s.accCpu) :
    ∃ t m, frameLoop n s = .next t ∧ FrameTurns m s t ∧ m ≤ n ∧ (t.halted = false → m = n) := by
  induction n generalizing s with
  | zero => exact ⟨s, 0, rfl, .done s, le_rfl, fun _ => rfl⟩
  | succ n ih =>
    push_cast [add_mul, one_mul] at hn
    have hle : s.instructionPeriod ≤ s.accCpu := (le_add_of_nonneg_left (by positivity)).trans hn
    obtain ⟨u, hu⟩ := step_next_of_running (s := s.setAccCpu (s.accCpu - s.instructionPeriod)) hrun
    obtain ⟨hacc, hper⟩ := turn_accCpu_period hu
    rw [frameLoop_turn n hle hu]
    cases hh : u.halted with
    | true => exact ⟨u, 1, rfl, .turn hle hu (.done u), by omega, fun h => absurd (hh.symm.trans h) nofun⟩
    | false =>
      obtain ⟨t, m, hloop, hturns, hm, hall⟩ := ih hh (hper ▸ hP) (by rw [hacc, hper]; linarith)
      exact ⟨t, m + 1, hloop, .turn hle hu hturns, by omega, fun h => by rw [hall h]⟩

namespace FrameTurns

variable {m : Nat} {s t : State} (h : FrameTurns m s t)
include h

/-- Every turn spends one instruction period of the saved time (R197); the clock stays. -/
theorem accCpu_clock : t.accCpu = s.accCpu - m * s.instructionPeriod ∧ t.clockFrequency = s.clockFrequency := by
  induction h with
  | done s => simp
  | turn hle hu _ ih =>
    obtain ⟨hacc, hper⟩ := turn_accCpu_period hu
    obtain ⟨ihacc, ihclock⟩ := ih
    refine ⟨?_, ihclock.trans (step_accCpu_clock hu).2⟩
    rw [ihacc, hacc, hper]
    push_cast
    ring

/-- The turns are a run of steps, the saved time apart. -/
theorem run (c : Rat) : Host.Core.run Sys2Proof.core m (s.setAccCpu c) = .next (t.setAccCpu c) := by
  induction h with
  | done s => rfl
  | turn hle hu _ ih => exact (run_succ (step_setAccCpu c hu)).trans ih

/-- Turns that end in a running block began in one. -/
theorem running (ht : t.halted = false) : s.halted = false :=
  running_of_run (s := s.setAccCpu 0) (h.run 0) ht

/-- Time saved beyond that of the turns is still there after them: the loop goes on with it (R203). -/
theorem frameLoop_add (ht : t.halted = false) (k : Nat) {c : Rat} (hc : 0 ≤ c) :
    frameLoop (m + k) (s.setAccCpu (s.accCpu + c)) = frameLoop k (t.setAccCpu (t.accCpu + c)) := by
  induction h with
  | done s => rw [Nat.zero_add]
  | @turn m s u t hle hu hturns ih =>
    have hle' : s.instructionPeriod ≤ s.accCpu + c := hle.trans (le_add_of_nonneg_right hc)
    have hrun : u.halted = false := hturns.running ht
    have hacc : u.accCpu + c = s.accCpu + c - s.instructionPeriod := by
      rw [(turn_accCpu_period hu).1, sub_add_eq_add_sub]
    have hstep := step_setAccCpu (s.accCpu + c - s.instructionPeriod) hu
    have hturn := frameLoop_turn (m + k) (s := s.setAccCpu (s.accCpu + c)) hle' hstep
    rw [Nat.add_right_comm, hturn, setAccCpu_halted, if_neg (ne_true_of_eq_false hrun), ← ih ht, hacc]

end FrameTurns

/-! ## The Frame command -/

section
variable {s : State}

/-- A running block takes the delta and the ticks that makes due (R197, R198). -/
theorem frame_of_running {dt : Rat} (h : s.halted = false) (hdt : 0 ≤ dt) :
    frame dt s = frameLoop (s.setAccCpu (s.accCpu + dt)).ticksDue (s.setAccCpu (s.accCpu + dt)) := by
  rw [frame, if_neg (not_lt.mpr hdt), if_neg (by simp [h])]
  rfl

theorem ticksDue_setAccCpu (c : Rat) : (s.setAccCpu c).ticksDue = ⌊c / s.instructionPeriod⌋₊ := rfl

/-- Whole periods saved on top make as many ticks due on top. -/
theorem floor_add_mul_div {c P : ℚ} (hP : 0 < P) (hc : 0 ≤ c) (m : Nat) : ⌊(c + m * P) / P⌋₊ = ⌊c / P⌋₊ + m := by
  rw [add_div, mul_div_cancel_right₀ _ hP.ne', Nat.floor_add_natCast (div_nonneg hc hP.le)]

/-- The ticks due are paid for by the time saved (R197). -/
theorem ticksDue_mul_le_accCpu (h : 0 < s.clockFrequency) (h0 : 0 ≤ s.accCpu) :
    s.ticksDue * s.instructionPeriod ≤ s.accCpu := by
  have hP := instructionPeriod_pos h
  rw [← le_div_iff₀ hP]
  exact Nat.floor_le (div_nonneg h0 hP.le)

/-- A Frame of a running block is as many turns as ticks are due, unless one halts it (R197, R204). -/
theorem frame_turns {dt : Rat} (hrun : s.halted = false) (h : 0 < s.clockFrequency) (h0 : 0 ≤ s.accCpu) (hdt : 0 ≤ dt) :
    ∃ t m, frame dt s = .next t ∧ FrameTurns m (s.setAccCpu (s.accCpu + dt)) t ∧
      m ≤ (s.setAccCpu (s.accCpu + dt)).ticksDue ∧
      (t.halted = false → m = (s.setAccCpu (s.accCpu + dt)).ticksDue) := by
  rw [frame_of_running hrun hdt]
  exact frameLoop_turns _ (s := s.setAccCpu (s.accCpu + dt)) hrun (instructionPeriod_pos h).le
    (ticksDue_mul_le_accCpu (s := s.setAccCpu (s.accCpu + dt)) h (add_nonneg h0 hdt))

end

/-- Settles O57: the Frame is turns of its loop, which are steps but for the time they spend. -/
theorem frameIsThatManySteps : Obligations.FrameIsThatManySteps := by
  intro s dt hrun h h0 hdt
  obtain ⟨t, m, hframe, hturns, hm, hall⟩ := frame_turns hrun h h0 hdt
  exact ⟨t, m, hframe, hm, hturns.run s.accCpu, hturns.accCpu_clock.1, hall⟩

/-- Settles O58: the longer Frame has the ticks of both due, and after those of the first stands where the second
starts. -/
theorem framesAddUp : Obligations.FramesAddUp := by
  intro s t a b h h0 ha hb hframe ht
  obtain ⟨hh, rfl⟩ | ⟨hrun, -, -⟩ := frame_cases hframe
  · exact absurd (hh.symm.trans ht) nofun
  obtain ⟨t', m, hframe', hturns, -, hall⟩ := frame_turns hrun h h0 ha
  cases hframe.symm.trans hframe'
  obtain ⟨(hacc : t.accCpu = s.accCpu + a - m * s.instructionPeriod), hclock⟩ := hturns.accCpu_clock
  have hper : t.instructionPeriod = s.instructionPeriod := congrArg (1 / ·) hclock
  have hpaid : m * s.instructionPeriod ≤ s.accCpu + a := by
    rw [hall ht]
    exact ticksDue_mul_le_accCpu (s := s.setAccCpu (s.accCpu + a)) h (add_nonneg h0 ha)
  have hdue : (s.setAccCpu (s.accCpu + (a + b))).ticksDue = m + (t.setAccCpu (t.accCpu + b)).ticksDue := by
    have hsum : s.accCpu + (a + b) = t.accCpu + b + m * s.instructionPeriod := by rw [hacc]; ring
    have hrest : 0 ≤ t.accCpu + b := by linarith
    rw [ticksDue_setAccCpu, ticksDue_setAccCpu, hper, hsum, floor_add_mul_div (instructionPeriod_pos h) hrest,
      Nat.add_comm]
  rw [frame_of_running ht hb, frame_of_running hrun (add_nonneg ha hb), hdue, ← hturns.frameLoop_add ht _ hb,
    ← add_assoc]
  rfl

/-- Settles O59: exactly one tick is due, and the step of that turn finds the saved time as it was. -/
theorem frameOfOnePeriodIsOneStep : Obligations.FrameOfOnePeriodIsOneStep := by
  intro s hrun h h0 hlt
  have hP := instructionPeriod_pos h
  have hdue : (s.setAccCpu (s.accCpu + s.instructionPeriod)).ticksDue = 1 := by
    have hone := floor_add_mul_div hP h0 1
    rwa [Nat.cast_one, one_mul, Nat.floor_eq_zero.mpr ((div_lt_one hP).mpr hlt)] at hone
  obtain ⟨u, hu⟩ := step_next_of_running hrun
  have hstep : step (s.setAccCpu (s.accCpu + s.instructionPeriod - s.instructionPeriod)) = .next u := by
    rw [add_sub_cancel_right]
    exact hu
  have hturn := frameLoop_turn 0 (s := s.setAccCpu (s.accCpu + s.instructionPeriod)) (le_add_of_nonneg_left h0) hstep
  rw [frame_of_running hrun hP.le, hdue, hturn, hu]
  exact ite_self _

end Sys2Proof.Machine
end

section
/-! PROOFS. The faults of execution (R215 to R224): the two shapes of a step that halts the block, and what an invalid word
does with and without DEBUG_MODE. -/

namespace Sys2Proof.Machine

open Sys2Proof.Claims

section
variable (s : State)

@[simp] theorem afterCycle_halted : s.afterCycle.halted = s.halted := by
  obtain ⟨_, _, _, h⟩ := afterCycle_only s; rw [h]

/-- A fault found after the fetch records the address fetched from, which pc has left by 2 (R223). -/
theorem raise_advancePc (code : FaultCode) (w : Word) :
    s.advancePc.raise code w = { s with pc := s.pc + 2, halted := true, lastFault := ⟨code, s.pc, w⟩ } := by
  rw [State.raise, State.advancePc_pc, BitVec.add_sub_cancel]
  rfl

/-- So does the log of an invalid word, which does not halt the block (R224). -/
theorem logInvalid_advancePc (w : Word) :
    s.advancePc.logInvalid w = { s with pc := s.pc + 2, lastFault := ⟨.invalidOpcode, s.pc, w⟩ } := by
  rw [State.logInvalid, State.advancePc_pc, BitVec.add_sub_cancel]
  rfl

end

section
variable {s t : State} {w : Word}

/-- Only a pc from 4095 on has no word to fetch (R102). -/
theorem pc_ge_of_no_word (hf : s.fetchWord = none) : s.pc.toNat ≥ 4095 := by
  by_contra hpc
  have hsome := fetchWord_of_le (s := s) (by omega)
  exact absurd (hf.symm.trans hsome) nofun

/-! ## The halting step -/

/-- An instruction that halts a running block raised one of the three faults of execution (R221, R222). -/
theorem exec_halting {i : Instr} (he : exec i s = .next t) (hs : s.halted = false) (ht : t.halted = true) :
    ∃ code, code ∈ [FaultCode.stackOverflow, .stackUnderflow, .outOfBoundsAccess] ∧ t = s.raise code (encode i) := by
  obtain hw | hfault := (effect_of_exec he).onlyWrites_or_faulted
  · exact absurd (ht.symm.trans (hw.status.1.trans hs)) nofun
  · exact hfault

/-- An invalid word that halts a running block raised InvalidOpcode: its log does not halt (R216, R224). -/
theorem invalidOpcode_halting (hs : s.halted = false) (ht : (s.invalidOpcode w).halted = true) :
    s.invalidOpcode w = s.raise .invalidOpcode w := by
  obtain ⟨-, hlog⟩ | ⟨-, hraise⟩ := invalidOpcode_cases s w
  · rw [hlog] at ht
    exact absurd (ht.symm.trans hs) nofun
  · exact hraise

/-- A step that halts the block took a fetch fault, or raised a fault of execution on the state with pc advanced; only
the inputs move on besides (R221, R222). -/
theorem step_halting_cases (h : step s = .next t) (ht : t.halted = true) :
    (s.pc.toNat ≥ 4095 ∧ t = s.raiseFetch.nextSample) ∨
    ∃ code word, code ∈ [FaultCode.invalidOpcode, .stackOverflow, .stackUnderflow, .outOfBoundsAccess] ∧
      t = (s.advancePc.raise code word).nextSample := by
  obtain ⟨hs, ⟨hf, rfl⟩ | ⟨w, -, ⟨_, -, rfl⟩ | ⟨i, u, -, he, rfl⟩⟩⟩ := step_cases h
  · exact .inl ⟨pc_ge_of_no_word hf, afterCycle_of_halted rfl⟩
  · rw [afterCycle_halted] at ht
    have hraise := invalidOpcode_halting (s := s.advancePc) hs ht
    exact .inr ⟨_, w, List.mem_cons_self, by rw [afterCycle_of_halted ht, hraise]⟩
  · rw [afterCycle_halted] at ht
    obtain ⟨code, hcode, hu⟩ := exec_halting he hs ht
    exact .inr ⟨code, encode i, List.mem_cons_of_mem _ hcode, by rw [afterCycle_of_halted ht, hu]⟩

/-- Settles O44: the two shapes of a halting step, each of which changes pc and the fault status alone. -/
theorem faultsArePrecise : Obligations.FaultsArePrecise := by
  intro s t h ht
  obtain ⟨hpc, rfl⟩ | ⟨code, word, hcode, rfl⟩ := step_halting_cases h ht
  · exact ⟨rfl, nofun, nofun, .inr ⟨rfl, hpc⟩, rfl⟩
  · have hexec : code ≠ .noFault := by rintro rfl; simp at hcode
    have hload : code ≠ .loadTooLarge := by rintro rfl; simp at hcode
    rw [raise_advancePc]
    exact ⟨rfl, hexec, hload, .inl rfl, rfl⟩

/-! ## The invalid word -/

/-- The step on a word that decodes to no instruction: the word is invalid, and the scheduler's part follows (R105). -/
theorem step_of_invalid (hs : s.halted = false) (hf : s.fetchWord = some w) (hd : ∀ i, decodeWord w ≠ .ok i) :
    step s = .next (s.advancePc.invalidOpcode w).afterCycle := by
  rw [step_of_running hs]
  cases hw : decodeWord w with
  | ok i => exact absurd hw (hd i)
  | error _ =>
    rw [cycle_of_invalid hf hw]
    rfl

end

/-- Settles O40: without DEBUG_MODE the invalid word is a fault, after which nothing accrues. -/
theorem invalidOpcodeHalts : Obligations.InvalidOpcodeHalts := by
  intro s w hs hdebug hf hd
  have hraise : s.advancePc.invalidOpcode w = s.advancePc.raise .invalidOpcode w := if_neg (ne_true_of_eq_false hdebug)
  rw [step_of_invalid hs hf hd, hraise, raise_advancePc, afterCycle_of_halted rfl]
  rfl

/-- Settles O41: under DEBUG_MODE the invalid word is logged, and the block, still running, accrues. -/
theorem debugModeLogsInvalidOpcode : Obligations.DebugModeLogsInvalidOpcode := by
  intro s w hs hdebug hf hd
  have hlog : s.advancePc.invalidOpcode w = s.advancePc.logInvalid w := if_pos hdebug
  rw [step_of_invalid hs hf hd, hlog, logInvalid_advancePc]
  exact congrArg _ (afterCycle_of_running hs)

end Sys2Proof.Machine
end

section
/-! PROOFS. The commands of the host (R231): which are refused, and what the others do. -/

namespace Sys2Proof.Machine

open Sys2Proof.Claims

section
variable {b : Block} (program : List Byte) (font : Vector Byte 80)

/-- A Reset under a clock of its own, a positive one (R36, R245). -/
theorem command_reset_some {f : Rat} (h : 0 < f) : command (.reset (some f) program font) b =
    .next (.loaded (State.resetCommand program font (b.underReset.withClock f))) := if_pos h

/-- A Reset under the block's clock, a positive one (R245). -/
theorem command_reset_none (h : 0 < b.underReset.clockFrequency) : command (.reset none program font) b =
    .next (.loaded (b.underReset.resetCommand program font)) := if_pos h

/-- A Reset under a clock that is not positive, its own or the block's, is refused (R36). -/
theorem command_reset_refused {clock : Option Rat} (h : ¬ 0 < clock.getD b.underReset.clockFrequency) :
    command (.reset clock program font) b = .refused .clockNotPositive := if_neg h

/-- What the machine has of a block's configuration and inputs after a Reset that gives no clock (R36, R245). -/
theorem command_reset_none_keeps (h : 0 < b.underReset.clockFrequency) :
    ∃ t, command (.reset none program font) b = .next (.loaded t) ∧
      t.clockFrequency = b.underReset.clockFrequency ∧ t.debugMode = b.underReset.debugMode ∧
      t.feed = b.underReset.feed := by
  obtain ⟨hclock, hdebug, -, hfeed, -⟩ := resetCommand_keeps b.underReset program font
  exact ⟨_, command_reset_none program font h, hclock, hdebug, hfeed⟩

variable (c : Setup)

/-- A positive clock set before the first Reset is the clock of the machine it loads (R36, D30). -/
theorem setClock_then_reset {f : Rat} (h : 0 < f) :
    ∃ b t, command (.setClockFrequency f) (.fresh c) = .next b ∧
      command (.reset none program font) b = .next (.loaded t) ∧ t.clockFrequency = f := by
  obtain ⟨t, ht, hclock, -, -⟩ :=
    command_reset_none_keeps (b := .fresh { c with clockFrequency := f }) program font h
  exact ⟨_, t, if_pos h, ht, hclock⟩

/-- DEBUG_MODE set before the first Reset holds in the machine it loads (R36). -/
theorem setDebugMode_then_reset (on : Bool) (h : 0 < c.clockFrequency) :
    ∃ b t, command (.setDebugMode on) (.fresh c) = .next b ∧
      command (.reset none program font) b = .next (.loaded t) ∧ t.debugMode = on := by
  obtain ⟨t, ht, -, hdebug, -⟩ := command_reset_none_keeps (b := .fresh { c with debugMode := on }) program font h
  exact ⟨_, t, rfl, ht, hdebug⟩

/-- Samples lined up before the first Reset stand in the machine it loads (R30, R31). -/
theorem lineUp_then_reset (xs : List Sample) (h : 0 < c.clockFrequency) :
    ∃ b t, command (.lineUp xs) (.fresh c) = .next b ∧
      command (.reset none program font) b = .next (.loaded t) ∧ t.feed = c.feed ++ xs := by
  obtain ⟨t, ht, -, -, hfeed⟩ := command_reset_none_keeps (b := .fresh { c with feed := c.feed ++ xs }) program font h
  exact ⟨_, t, rfl, ht, hfeed⟩

end

/-- A negative delta is refused, whatever the state (R208, D34). -/
theorem frame_of_neg {dt : Rat} (s : State) (h : dt < 0) : frame dt s = .refused .negativeDelta := if_pos h

/-- Settles O52, clause by clause in its order: Frame, the clock with no Reset, Reset, what a Reset starts from, and what
the host sets before the first Reset and after one. -/
theorem commandsOutsideTheContractAreRefused : Obligations.CommandsOutsideTheContractAreRefused := by
  refine ⟨?frameFresh, ?frameNegative, ?frameLoaded, ?clockLoaded, ?clockFresh, ?resetClockRefused, ?resetClock,
    ?resetRefused, ?reset, ?startLoaded, ?startFresh, ?clockFirst, ?debugFirst, ?samplesFirst, ?debugLater, ?samplesLater⟩
  case frameNegative => exact fun dt s h => congrArg loadedOutcome (frame_of_neg s h)
  case clockFresh => exact fun f c h => if_neg h
  case resetClockRefused => exact fun f b program font h => command_reset_refused program font h
  case resetClock => exact fun f b program font h => command_reset_some program font h
  case resetRefused => exact fun b program font h => command_reset_refused program font h
  case reset => exact fun b program font h => command_reset_none program font h
  case startLoaded => exact underReset_loaded
  case startFresh => exact fun c => ⟨rfl, rfl, rfl, rfl, rfl⟩
  case clockFirst => exact fun f c program font h => setClock_then_reset program font c h
  case debugFirst => exact fun on c program font h => setDebugMode_then_reset program font c on h
  case samplesFirst => exact fun xs c program font h => lineUp_then_reset program font c xs h
  case frameFresh | frameLoaded | clockLoaded | debugLater | samplesLater => exact fun _ _ => rfl

end Sys2Proof.Machine
end

section
/-! PROOFS. The Reset command (R245 to R250): what it zeroes, whatever the program, and the invariant of the state it
leaves; and that a running block never blocks (R264). -/

namespace Sys2Proof.Machine

open Sys2Proof.Claims

/-- Settles O43: a fetch fault, an invalid word and each instruction all answer a next state of the cycle. -/
theorem runningBlockAlwaysSteps : Obligations.RunningBlockAlwaysSteps := fun _ => step_next_of_running

/-- What a Reset command zeroes whether it loads or not, and pc at 512 (R245, R246). -/
structure Cleared (t : State) : Prop where
  registers : ∀ r : Reg, t.V[r] = 0
  index : t.I = 0
  pc : t.pc = 512
  depth : t.sp = 0
  stack : ∀ k : Fin 128, t.stack[k] = 0
  delay : t.DT = 0
  sound : t.ST = 0
  silent : t.soundActive = false
  screen : ∀ x y, t.fb.pixel x y = false
  cpuTime : t.accCpu = 0
  timerTime : t.accTimer = 0

section
variable (s : State) (program : List Byte) (font : Vector Byte 80)

theorem zeroed_V (r : Reg) : s.zeroed.V[r] = 0 := Vector.getElem_replicate r.isLt

theorem zeroed_stack (k : Fin 128) : s.zeroed.stack[k] = 0 := Vector.getElem_replicate k.isLt

/-- Zeroing keeps only the configuration and the samples lined up (R245, R36). -/
theorem zeroed_eq_reset : s.zeroed =
    { State.reset with
      clockFrequency := s.clockFrequency, debugMode := s.debugMode, fontBase := s.fontBase
      feed := s.feed, draws := s.draws } := rfl

theorem zeroed_cleared : Cleared s.zeroed where
  registers := zeroed_V s
  index := rfl
  pc := rfl
  depth := rfl
  stack := zeroed_stack s
  delay := rfl
  sound := rfl
  silent := rfl
  screen := pixel_clear
  cpuTime := rfl
  timerTime := zero_div _

/-- Loading, or halting with LoadTooLarge, leaves the cleared parts alone. -/
theorem resetCommand_cleared : Cleared (s.resetCommand program font) := by
  rcases Nat.lt_or_ge 3584 program.length with hlong | hfits
  · rw [resetCommand_of_gt s hlong]
    exact { zeroed_cleared s with }
  · rw [resetCommand_of_le s hfits]
    exact { zeroed_cleared s with }

variable {s}

theorem zeroed_inv (h : 0 < s.clockFrequency) : Inv s.zeroed where
  memory := Memory.wf_nil
  clock := h
  cpuTime := ⟨le_rfl, fun _ => instructionPeriod_pos h⟩
  timerTime := phasePeriod_pos h
  pcBound := by rw [(zeroed_cleared s).pc]; decide
  returnAddresses k := by rw [zeroed_stack]; exact Nat.zero_le _
  status := ⟨nofun, fun _ => .inl rfl⟩
  noFaultZero _ := rfl

/-- A program that fits changes only memory, which stays canonical; one that does not, only the fault status (D25). -/
theorem resetCommand_inv (h : 0 < s.clockFrequency) : Inv (s.resetCommand program font) := by
  rcases Nat.lt_or_ge 3584 program.length with hlong | hfits
  · rw [resetCommand_of_gt s hlong]
    exact { zeroed_inv h with cpuTime := ⟨le_rfl, nofun⟩, status := ⟨fun _ => nofun, nofun⟩, noFaultZero := nofun }
  · rw [resetCommand_of_le s hfits]
    exact { zeroed_inv h with memory := loadedMemory_wf s.fontBase font hfits }

end

/-- Settles O46: `State.reset` is its own zeroed state, under the default clock. -/
theorem resetStateHasTheInvariant : Obligations.ResetStateHasTheInvariant := by
  refine ⟨fun s program font => resetCommand_inv program font, ?_⟩
  have hclock : 0 < State.reset.clockFrequency := by norm_num [State.reset]
  have hzeroed : State.reset.zeroed = State.reset := zeroed_eq_reset State.reset
  rw [← hzeroed]
  exact zeroed_inv hclock

/-- Settles O48: `Cleared`, with the fault status as `zeroed` leaves it and the configuration as it was. -/
theorem resetClearsTheState : Obligations.ResetClearsTheState := by
  rintro s t program font h rfl
  obtain ⟨hV, hI, hpc, hsp, hstack, hDT, hST, hsilent, hscreen, hcpu, htimer⟩ := resetCommand_cleared s program font
  obtain ⟨hclock, hdebug, hfont, -, -⟩ := resetCommand_keeps s program font
  obtain ⟨hrunning, hfault⟩ : (s.resetCommand program font).halted = false ∧
      (s.resetCommand program font).lastFault = ⟨.noFault, 0, 0⟩ := by
    rw [resetCommand_of_le s h]; exact ⟨rfl, rfl⟩
  exact ⟨hV, hI, hpc, hsp, hstack, hDT, hST, hsilent, hscreen, hrunning, hfault, hcpu, htimer, hclock, hdebug, hfont⟩

/-- Settles O50: `Cleared`, with LoadTooLarge as the fault and memory left empty. -/
theorem resetWithTooLongAProgramHalts : Obligations.ResetWithTooLongAProgramHalts := by
  rintro s t program font h rfl
  obtain ⟨hV, hI, hpc, hsp, hstack, hDT, hST, hsilent, hscreen, hcpu, htimer⟩ := resetCommand_cleared s program font
  obtain ⟨hclock, hdebug, hfont, -, -⟩ := resetCommand_keeps s program font
  obtain ⟨hhalted, hfault, hmem⟩ : (s.resetCommand program font).halted = true ∧
      (s.resetCommand program font).lastFault = ⟨.loadTooLarge, 0, 0⟩ ∧ (s.resetCommand program font).mem = [] := by
    rw [resetCommand_of_gt s h]; exact ⟨rfl, rfl, rfl⟩
  exact ⟨hhalted, hfault, hpc, fun a => hmem ▸ Memory.read_nil a, hmem ▸ Memory.wf_nil, hV, hI, hsp, hstack, hDT, hST,
    hsilent, hscreen, hcpu, htimer, hclock, hdebug, hfont⟩

/-- Settles O51: the state is the zeroed one with memory loaded, and that is `State.reset` but for what zeroing keeps. -/
theorem resetForgetsThePreviousState : Obligations.ResetForgetsThePreviousState := by
  intro s program font h
  rw [resetCommand_of_le s h, zeroed_eq_reset]

end Sys2Proof.Machine
end
